-- ==== Sys2Proof/Word.lean ====
section
/-! DEFINITION. The widths of the device-protocol block: every value is an unsigned number of 8, 16 or 32 bits
(00_scope.md rules R11, R18). -/

namespace Sys2Proof

/-- A byte, the element of every buffer, stream and frame (00_scope.md R11). -/
abbrev Byte := BitVec 8

/-- A 16-bit value: the CRC16 register, and a code point of USSD text. -/
abbrev Half := BitVec 16

/-- A 32-bit unsigned value: sums, limits, denominations, times. -/
abbrev Word := BitVec 32

/-- A byte sequence, first byte on the wire first (00_scope.md R11). -/
abbrev Bytes := List Byte

end Sys2Proof
end

