-- ==== Sys2Proof/Syntax.lean ====
section
/-! DEFINITION. The vocabulary of the block and its instructions: one constructor of `Instr` for every row of
spec/opcode_table.json, the 33 operations of 30_encoding.md rule R110 and the five wire formats of rules R90 to R106. -/

namespace Sys2Proof

/-- The protocol family of an instance, fixed when it is made (00_scope.md R10, `PROTO`). -/
inductive Proto where
  | cctalk | ccnet | ebds | wdg | at
deriving DecidableEq, Repr, Inhabited

/-- Which field of a cctalk reply holds NAK or BUSY (30_encoding.md R93). -/
inductive NakBusyField where
  | payload | command
deriving DecidableEq, Repr, Inhabited

/-- The interpreted status of one poll cycle (43_escrow.md R270). -/
inductive PollState where
  | idling
  | accepting
  | escrow (denomination : Word)
  | stacking
  | stacked (denomination : Word)
  | returning
  | returned
  | rejecting (reason : Word)
  | jammed (location : Word)
  | cassetteFull
  | cassetteOpen
  | powerUp
  | disabled
  | error (code : Word)
  | initialise
deriving DecidableEq, Repr, Inhabited

/-- The tag code of a PollState (43_escrow.md R270). -/
def PollState.tag : PollState → Byte
  | .idling => 0 | .accepting => 1 | .escrow _ => 2 | .stacking => 3 | .stacked _ => 4
  | .returning => 5 | .returned => 6 | .rejecting _ => 7 | .jammed _ => 8 | .cassetteFull => 9
  | .cassetteOpen => 10 | .powerUp => 11 | .disabled => 12 | .error _ => 13 | .initialise => 14

/-- The argument of a PollState; a tag without one has argument 0 (43_escrow.md R270). -/
def PollState.arg : PollState → Word
  | .escrow d | .stacked d | .rejecting d | .jammed d | .error d => d
  | .idling | .accepting | .stacking | .returning | .returned | .cassetteFull | .cassetteOpen
  | .powerUp | .disabled | .initialise => 0

/-- The PollState with a given tag code and argument: none for a tag above 14, and none for an argument other than 0
on a tag that has no argument (43_escrow.md R270). -/
def PollState.ofTag (tag : Nat) (arg : Word) : Option PollState :=
  match tag with
  | 2 => some (.escrow arg)
  | 4 => some (.stacked arg)
  | 7 => some (.rejecting arg)
  | 8 => some (.jammed arg)
  | 13 => some (.error arg)
  | t =>
    if arg ≠ 0 then none
    else match t with
      | 0 => some .idling
      | 1 => some .accepting
      | 3 => some .stacking
      | 5 => some .returning
      | 6 => some .returned
      | 9 => some .cassetteFull
      | 10 => some .cassetteOpen
      | 11 => some .powerUp
      | 12 => some .disabled
      | 14 => some .initialise
      | _ => none

/-- The command ESC.POLL decides (43_escrow.md R274; 10_state.md R45). -/
inductive EscCmd where
  | none | stack | ret
deriving DecidableEq, Repr, Inhabited

/-- The class of an AT terminal line (44_at_decoder.md R335, R337). -/
inductive AtClass where
  | success | failure | unsolicited | unclassified
deriving DecidableEq, Repr, Inhabited

/-- The stage at which ATD.USSD found its text (44_at_decoder.md R350). -/
inductive UssdStage where
  | none | plain | gsm7 | ucs2
deriving DecidableEq, Repr, Inhabited

/-- The four checksum-class errors, the ways a decoder rejects a buffer (41_framers.md R161; 00_scope.md R16). -/
inductive DecErr where
  | checksum | length | address | ackBit
deriving DecidableEq, Repr, Inhabited

/-- A decoded reply: what the decoder of a family returns (42_exchange_retry.md R230; 41_framers.md R163, R178, R192,
R206; 44_at_decoder.md R335). -/
inductive Reply where
  | cct (src cmd : Byte) (payload : Bytes)
  | ccn (cmd : Byte) (payload : Bytes) (offset : Nat)
  | ebd (cmd : Byte) (payload : Bytes)
  | wdg
  | at (cls : AtClass) (term : Bytes) (info : List Bytes) (body : Bytes)
deriving DecidableEq, Repr, Inhabited

/-- The instructions: every row of spec/opcode_table.json. The operations carry the operands of 30_encoding.md R110 as
typed values; the wire formats carry the fields of their frame that are not computed from the others. -/
inductive Instr where
  | sysReset
  | chkS8Init
  | chkS8Upd (b : Byte)
  | chkS8Fin
  | chkC16Init
  | chkC16Upd (b : Byte)
  | chkC16Fin
  | chkX8Init
  | chkX8Upd (b : Byte)
  | chkX8Fin
  | frmLoad (bytes : Bytes)
  | frmCctEnc (dest src cmd : Byte) (payload : Bytes)
  | frmCctDec (expectDest : Byte)
  | frmCcnEnc (addr cmd : Byte) (payload : Bytes)
  | frmCcnDec (expectAddr : Byte)
  | frmEbdEnc (cmd : Byte) (payload : Bytes)
  | frmEbdDec (expectAck : Bool)
  | frmWdgEnc (cmd : Byte)
  | frmWdgDec
  | frmWdgChk
  | sesProbe
  | sesStart
  | sesStop
  | sesClose
  | sesExchange (cmd payload : Bytes)
  | sesStopreq
  | sesCycle (now : Word)
  | escCfg (maxSum : Word) (rejectAboveMax : Bool)
  | escDberr (flag : Bool)
  | escPoll (state : PollState) (now : Word)
  | atdEnc (text : Bytes) (term : Bool)
  | atdDec
  | atdUssd
  | wireCctalk (dest src cmd : Byte) (payload : Bytes)
  | wireCcnet (addr cmd : Byte) (payload : Bytes)
  | wireEbds (ctl : Byte) (data : Bytes)
  | wireWatchdog (cmd : Byte)
  | wireAt (text : Bytes) (term : Bool)
deriving DecidableEq, Repr, Inhabited

end Sys2Proof
end

