-- ==== Sys2Proof/Config.lean ====
section
/-! DEFINITION. The parameters of 00_scope.md rule R10, the constants of rule R9, and the free values: what the spec
leaves to the instance or to the environment is an opaque constant here, so that no proof can see its value. -/

namespace Sys2Proof

/-- The parameters of one instance (00_scope.md R10). They are plain data; no step writes them (20_memory.md R77). -/
structure Params where
  proto : Proto
  rxCap : Nat
  txCap : Nat
  crcInit : Half
  crcXorOut : Half
  cctHostAddr : Byte
  cctDevAddr : Byte
  cctNakBusyField : NakBusyField
  ccnAddr : Byte
  /-- The position of the EBDS ACK bit: `EBD_ACK_MASK` is the byte with this one bit set. -/
  ebdAckBit : Fin 8
  ebdCrcCoversPostfix : Bool
  /-- `MAX_NAK[p]` where R9 does not fix it: EBDS, WDG, AT. -/
  otherMaxNak : Nat
  /-- `MAX_ERR[p]` where R9 does not fix it: EBDS, WDG, AT. -/
  otherMaxErr : Nat
  readTimeoutMs : Nat
  pollSleepMs : Nat
  dupWindowMs : Nat
  cmdPoll : Bytes
  cmdStack : Bytes
  cmdReturn : Bytes
  /-- `CMD_IDENT`; on a CCNET instance it is the poll command whatever stands here (42_exchange_retry.md R244;
  `Machine.identCommand`). -/
  cmdIdent : Bytes
  probeFollowups : List (Bytes × Bytes)
  ccnFailByte : Byte
  /-- `GSM7_TABLE`: the code point of every septet (44_at_decoder.md R357). -/
  gsm7Table : Vector Half 128
  /-- Values of `INTERPRET` that are settled; every other value is `Config.interpret`. -/
  interpTable : List (Reply × PollState)
  /-- Values of `CCN_NAKBUSY` and `EBD_NAKBUSY` that are settled; every other value is `Config.nakBusy`. -/
  nakTable : List (Reply × Bool)
  /-- Values of `USSD_MATCH` that are settled; every other value is `Config.ussdMatch`. -/
  ussdTable : List (List Half × Option (List Half))
deriving DecidableEq, Repr

namespace Config

/-! The OPEN parameters of R10: no default is given, so the value is free. -/

opaque proto : Proto
opaque ccnAddr : Byte
opaque readTimeoutMs : Nat
opaque pollSleepMs : Nat
opaque cmdPoll : Bytes
opaque cmdStack : Bytes
opaque cmdReturn : Bytes
opaque cmdIdent : Bytes
opaque probeFollowups : List (Bytes × Bytes)
opaque ccnFailByte : Byte
/-- `INTERPRET`, the poll-response interpreter (43_escrow.md R272; 93_implementation_defined.md U5). -/
opaque interpret : Proto → Reply → PollState
/-- `CCN_NAKBUSY` and `EBD_NAKBUSY` (42_exchange_retry.md R233; 93_implementation_defined.md U8). -/
opaque nakBusy : Proto → Reply → Bool
/-- `USSD_MATCH` (44_at_decoder.md R352; 93_implementation_defined.md U6). -/
opaque ussdMatch : List Half → Option (List Half)

/-! The answers of the environment: free values, read at the state's counter of port calls. -/

/-- Whether PortOpen succeeds (20_memory.md R69; 93_implementation_defined.md U4). -/
opaque portOpenOk : Nat → Bool
/-- Whether PortWrite succeeds (20_memory.md R66; 93_implementation_defined.md U4). -/
opaque portWriteOk : Nat → Bool
/-- How many bytes of a failed write reached the line (20_memory.md R66; 93_implementation_defined.md U3). -/
opaque portWriteReached : Nat → Nat
/-- The bytes that arrive during one PortRead with a given timeout (20_memory.md R67; 93_implementation_defined.md U2). -/
opaque portArrivals : (timeoutMs call : Nat) → Bytes

/-- The bound of R9 on NAK/BUSY replies and on checksum-class errors, for cctalk and CCNET. -/
def fixedRetryBound : Nat := 3

/-- The default bound of R10 for a family whose bound R9 does not fix: 3 for EBDS, 1 for WDG and AT. -/
def defaultRetryBound : Proto → Nat
  | .cctalk | .ccnet | .ebds => 3
  | .wdg | .at => 1

/-- The GSM default alphabet by septet, 128 code points (44_at_decoder.md R357). -/
def gsm7Alphabet : List Half :=
  [0x0040, 0x00A3, 0x0024, 0x00A5, 0x00E8, 0x00E9, 0x00F9, 0x00EC,
   0x00F2, 0x00C7, 0x000A, 0x00D8, 0x00F8, 0x000D, 0x00C5, 0x00E5] ++
  [0x0394, 0x005F, 0x03A6, 0x0393, 0x039B, 0x03A9, 0x03A0, 0x03A8,
   0x03A3, 0x0398, 0x039E, 0x001B, 0x00C6, 0x00E6, 0x00DF, 0x00C9] ++
  [0x0020, 0x0021, 0x0022, 0x0023, 0x00A4, 0x0025, 0x0026, 0x0027,
   0x0028, 0x0029, 0x002A, 0x002B, 0x002C, 0x002D, 0x002E, 0x002F] ++
  [0x0030, 0x0031, 0x0032, 0x0033, 0x0034, 0x0035, 0x0036, 0x0037,
   0x0038, 0x0039, 0x003A, 0x003B, 0x003C, 0x003D, 0x003E, 0x003F] ++
  [0x00A1, 0x0041, 0x0042, 0x0043, 0x0044, 0x0045, 0x0046, 0x0047,
   0x0048, 0x0049, 0x004A, 0x004B, 0x004C, 0x004D, 0x004E, 0x004F] ++
  [0x0050, 0x0051, 0x0052, 0x0053, 0x0054, 0x0055, 0x0056, 0x0057,
   0x0058, 0x0059, 0x005A, 0x00C4, 0x00D6, 0x00D1, 0x00DC, 0x00A7] ++
  [0x00BF, 0x0061, 0x0062, 0x0063, 0x0064, 0x0065, 0x0066, 0x0067,
   0x0068, 0x0069, 0x006A, 0x006B, 0x006C, 0x006D, 0x006E, 0x006F] ++
  [0x0070, 0x0071, 0x0072, 0x0073, 0x0074, 0x0075, 0x0076, 0x0077,
   0x0078, 0x0079, 0x007A, 0x00E4, 0x00F6, 0x00F1, 0x00FC, 0x00E0]

/-- The default of `GSM7_TABLE` (00_scope.md R10). -/
def gsm7Default : Vector Half 128 := ⟨gsm7Alphabet.toArray, rfl⟩

/-- The instance as R10 gives it: the default of every parameter that has one, a free value for every OPEN one. -/
def instanceParams : Params where
  proto := Config.proto
  rxCap := 1024
  txCap := 1024
  crcInit := 0x0000
  crcXorOut := 0x0000
  cctHostAddr := 0x01
  cctDevAddr := 0x02
  cctNakBusyField := .payload
  ccnAddr := Config.ccnAddr
  ebdAckBit := 0
  ebdCrcCoversPostfix := true
  otherMaxNak := defaultRetryBound Config.proto
  otherMaxErr := defaultRetryBound Config.proto
  readTimeoutMs := Config.readTimeoutMs
  pollSleepMs := Config.pollSleepMs
  dupWindowMs := 500
  cmdPoll := Config.cmdPoll
  cmdStack := Config.cmdStack
  cmdReturn := Config.cmdReturn
  cmdIdent := Config.cmdIdent
  probeFollowups := Config.probeFollowups
  ccnFailByte := Config.ccnFailByte
  gsm7Table := gsm7Default
  interpTable := []
  nakTable := []
  ussdTable := []

end Config
end Sys2Proof
end

