-- ==== Sys2Proof/Machine/Checksum.lean ====
section
/-! DEFINITION. The three check functions of the CHK unit (40_checksum.md), as pure functions over a byte sequence; the
framers use them, and the CHK operations are their byte-by-byte form. -/

namespace Sys2Proof.Machine

/-- The two's complement of an 8-bit value (40_checksum.md R131). -/
def negate8 (a : Byte) : Byte := 0 - a

/-- One byte into the SUM8 register: addition modulo 256 (40_checksum.md R131, R135). -/
def sum8Step (a b : Byte) : Byte := a + b

/-- `sum8`, D0's "CRC8" (40_checksum.md R133). -/
def sum8 (bs : Bytes) : Byte := negate8 (bs.foldl sum8Step 0)

/-- The reversed CCITT polynomial (00_scope.md R9; 40_checksum.md R138). -/
def crcPoly : Half := 0x8408

/-- One of the eight shifts of the CRC16 register (40_checksum.md R141). -/
def crcShift (c : Half) : Half :=
  if c.getLsbD 0 then (c >>> 1) ^^^ crcPoly else c >>> 1

/-- `crcShift` repeated (40_checksum.md R141). -/
def crcShifts : Nat → Half → Half
  | 0, c => c
  | n + 1, c => crcShifts n (crcShift c)

/-- One byte into the CRC16 register (40_checksum.md R141). -/
def crc16Step (c : Half) (b : Byte) : Half := crcShifts 8 (c ^^^ b.setWidth 16)

/-- `crc16` with its start value and final XOR as parameters (40_checksum.md R140). -/
def crc16 (init xorOut : Half) (bs : Bytes) : Half := bs.foldl crc16Step init ^^^ xorOut

/-- One byte into the XOR8 register (40_checksum.md R147, R149). -/
def xor8Step (a b : Byte) : Byte := a ^^^ b

/-- `xor8` (40_checksum.md R147). -/
def xor8 (bs : Bytes) : Byte := bs.foldl xor8Step 0

/-- The low byte of a 16-bit value, first on the wire (20_memory.md R63). -/
def loByte (c : Half) : Byte := c.setWidth 8

/-- The high byte of a 16-bit value, second on the wire (20_memory.md R63). -/
def hiByte (c : Half) : Byte := (c >>> 8).setWidth 8

/-- The 16-bit value received low byte first (30_encoding.md R96). -/
def ofLoHi (lo hi : Byte) : Half := lo.setWidth 16 ||| (hi.setWidth 16 <<< 8)

/-! ### Single-bit sensitivity -/

/-- A byte with one bit changed. -/
def flipBit (b : Byte) (k : Fin 8) : Byte := b ^^^ 1#8 <<< k.val

/-- A check function sees a single bit: changing any bit of any byte of a sequence changes the result (40_checksum.md
R152). -/
def SeesEveryBit {α : Type} (check : Bytes → α) : Prop :=
  ∀ (xs ys : Bytes) (b : Byte) (k : Fin 8), check (xs ++ flipBit b k :: ys) ≠ check (xs ++ b :: ys)

/-- The single-bit sensitivity of the three check functions, with what becomes of the result: the sum moves by a power of
two, the same bit of the XOR flips (40_checksum.md R152). -/
structure SingleBitSensitivity : Prop where
  sum8 : SeesEveryBit sum8
  sum8_moves (xs ys : Bytes) (b : Byte) (k : Fin 8) :
    Machine.sum8 (xs ++ flipBit b k :: ys) = Machine.sum8 (xs ++ b :: ys) + 1#8 <<< k.val ∨
      Machine.sum8 (xs ++ flipBit b k :: ys) = Machine.sum8 (xs ++ b :: ys) - 1#8 <<< k.val
  xor8 : SeesEveryBit xor8
  xor8_flips (xs ys : Bytes) (b : Byte) (k : Fin 8) :
    Machine.xor8 (xs ++ flipBit b k :: ys) = flipBit (Machine.xor8 (xs ++ b :: ys)) k
  crc16 (init xorOut : Half) : SeesEveryBit (crc16 init xorOut)

end Sys2Proof.Machine
end

