-- ==== Sys2Proof/Machine/Frames.lean ====
section
/-! DEFINITION. The frame formats of the four binary families (30_encoding.md R90 to R102) as pure functions: how a frame is
built from its fields and how a received buffer is read (41_framers.md). A decoder reads a buffer by taking it apart, so no
index outside the valid bytes can be read (20_memory.md R60; 41_framers.md R179). -/

namespace Sys2Proof.Machine

/-- The CRC16 of an instance, with its start value and final XOR (00_scope.md R10). -/
def instanceCrc (p : Params) (bs : Bytes) : Half := crc16 p.crcInit p.crcXorOut bs

/-! ### cctalk -/

/-- The cctalk frame of its fields (30_encoding.md R90 to R92). -/
def cctFrame (dest src cmd : Byte) (payload : Bytes) : Bytes :=
  let f := [dest, BitVec.ofNat 8 payload.length, src, cmd] ++ payload
  f ++ [sum8 f]

/-- FRM.CCT.ENC's frame, or none where the payload does not fit (41_framers.md R162). -/
def cctEncode (p : Params) (dest src cmd : Byte) (payload : Bytes) : Option Bytes :=
  if payload.length > 255 ∨ payload.length + 5 > p.txCap then none
  else some (cctFrame dest src cmd payload)

/-- FRM.CCT.DEC: source address, command and payload of the one frame a buffer holds (41_framers.md R163, R164). -/
def cctDecode (expectDest : Byte) (rx : Bytes) : Except DecErr (Byte × Byte × Bytes) :=
  match rx with
  | dest :: len :: src :: cmd :: c :: rest =>
    if dest ≠ expectDest then .error .address
    else if len.toNat + 5 ≠ rx.length then .error .length
    else if sum8 rx.dropLast ≠ (c :: rest).getLastD 0 then .error .checksum
    else .ok (src, cmd, (c :: rest).dropLast)
  | _ => .error .length

/-- The NAK/BUSY test of a decoded cctalk reply (41_framers.md R165; 30_encoding.md R93). -/
def cctNakBusy (field : NakBusyField) (cmd : Byte) (payload : Bytes) : Bool :=
  match field with
  | .payload => payload = [0x05] ∨ payload = [0x06]
  | .command => payload = [] ∧ (cmd = 0x05 ∨ cmd = 0x06)

/-! ### CCNET -/

/-- The first byte of a CCNET frame (00_scope.md R9). -/
def syncByte : Byte := 0x02

/-- The CCNET frame of its fields (30_encoding.md R94 to R96). -/
def ccnFrame (p : Params) (addr cmd : Byte) (payload : Bytes) : Bytes :=
  let f := [syncByte, addr, BitVec.ofNat 8 (payload.length + 6), cmd] ++ payload
  let c := instanceCrc p f
  f ++ [loByte c, hiByte c]

/-- FRM.CCN.ENC's frame, or none where the payload does not fit (41_framers.md R176). -/
def ccnEncode (p : Params) (addr cmd : Byte) (payload : Bytes) : Option Bytes :=
  if payload.length > 249 ∨ payload.length + 6 > p.txCap then none
  else some (ccnFrame p addr cmd payload)

/-- What the CCNET scan makes of the bytes from one index on (41_framers.md R178): no whole candidate there, a candidate
whose CRC fails, or a checksum-valid candidate. -/
inductive CcnCandidate where
  | dropped
  | crcFailed
  | valid (addr cmd : Byte) (payload : Bytes)
deriving DecidableEq, Repr

/-- The candidate at the head of a buffer's tail: checks (a) and (b) and the CRC comparison of 41_framers.md R178, R179,
R181. -/
def ccnCandidate (p : Params) (tail : Bytes) : CcnCandidate :=
  match tail with
  | sync :: addr :: len :: cmd :: rest =>
    if sync = syncByte ∧ 6 ≤ len.toNat ∧ len.toNat ≤ tail.length then
      match tail.drop (len.toNat - 2) with
      | lo :: hi :: _ =>
        if instanceCrc p (tail.take (len.toNat - 2)) = ofLoHi lo hi then
          .valid addr cmd (rest.take (len.toNat - 6))
        else .crcFailed
      | _ => .dropped
    else .dropped
  | _ => .dropped

/-- How the CCNET scan ends (41_framers.md R178, R182). -/
inductive CcnScan where
  | found (offset : Nat) (addr cmd : Byte) (payload : Bytes)
  | exhausted (sawCrcFail : Bool)
deriving DecidableEq, Repr

/-- The CCNET resynchronisation scan: every index in ascending order, the first checksum-valid candidate is the answer
(41_framers.md R178, R180). -/
def ccnScan (p : Params) : (offset : Nat) → (sawCrcFail : Bool) → Bytes → CcnScan
  | _, saw, [] => .exhausted saw
  | i, saw, b :: tail =>
    match ccnCandidate p (b :: tail) with
    | .valid addr cmd payload => .found i addr cmd payload
    | .crcFailed => ccnScan p (i + 1) true tail
    | .dropped => ccnScan p (i + 1) saw tail

/-- The outcome of FRM.CCN.DEC: a frame and its offset, the offset of a valid frame with another address, or the error of
R182 (41_framers.md R178, R182, R183). -/
inductive CcnDecoded where
  | frame (cmd : Byte) (payload : Bytes) (offset : Nat)
  | wrongAddress (offset : Nat)
  | failed (e : DecErr)
deriving DecidableEq, Repr

/-- FRM.CCN.DEC on a buffer (41_framers.md R178). -/
def ccnDecode (p : Params) (expectAddr : Byte) (rx : Bytes) : CcnDecoded :=
  match ccnScan p 0 false rx with
  | .found i addr cmd payload => if addr ≠ expectAddr then .wrongAddress i else .frame cmd payload i
  | .exhausted true => .failed .checksum
  | .exhausted false => .failed .length

/-! ### EBDS -/

/-- PREFIX and POSTFIX of an EBDS frame (00_scope.md R9). -/
def ebdPrefix : Byte := 0x02
def ebdPostfix : Byte := 0x03

/-- The EBDS extended marker (00_scope.md R9; 30_encoding.md R101). -/
def ebdMarker : Byte := 0x70

/-- `EBD_ACK_MASK` (00_scope.md R10; 30_encoding.md R99). -/
def ackMask (p : Params) : Byte := 1#8 <<< p.ebdAckBit.val

/-- The ACK bit of the byte at offset 2 of an EBDS frame (30_encoding.md R99). -/
def ackOf (p : Params) (ctl : Byte) : Bool := ctl &&& ackMask p ≠ 0

/-- The byte at offset 2 of an EBDS frame (30_encoding.md R99). -/
def ctlByte (p : Params) (cmd : Byte) (ack : Bool) : Byte :=
  cmd ||| (if ack then ackMask p else 0)

/-- The EBDS check byte over length, control byte, data and, where the parameter says so, POSTFIX (30_encoding.md R100). -/
def ebdCheck (p : Params) (lenToPostfix : Bytes) : Byte :=
  if p.ebdCrcCoversPostfix then xor8 lenToPostfix else xor8 lenToPostfix.dropLast

/-- The EBDS frame of its control byte and data (30_encoding.md R97 to R100). -/
def ebdFrame (p : Params) (ctl : Byte) (data : Bytes) : Bytes :=
  let f := [BitVec.ofNat 8 (data.length + 5), ctl] ++ data ++ [ebdPostfix]
  ebdPrefix :: (f ++ [ebdCheck p f])

/-- FRM.EBD.ENC's frame, or none where the payload does not fit or the command has the ACK bit set (41_framers.md R190). -/
def ebdEncode (p : Params) (ack : Bool) (cmd : Byte) (payload : Bytes) : Option Bytes :=
  if payload.length > 250 ∨ payload.length + 5 > p.txCap then none
  else if cmd &&& ackMask p ≠ 0 then none
  else some (ebdFrame p (ctlByte p cmd ack) payload)

/-- The control byte and data of the one EBDS frame a buffer holds: checks (a) to (e) of 41_framers.md R192. -/
def ebdParse (p : Params) (rx : Bytes) : Except DecErr (Byte × Bytes) :=
  match rx with
  | pre :: len :: ctl :: c :: d :: rest =>
    let body := (c :: d :: rest).dropLast
    if pre ≠ ebdPrefix then .error .length
    else if len.toNat ≠ rx.length then .error .length
    else if body.getLastD 0 ≠ ebdPostfix then .error .length
    else if ebdCheck p (len :: ctl :: body) ≠ (d :: rest).getLastD 0 then .error .checksum
    else .ok (ctl, body.dropLast)
  | _ => .error .length

/-- FRM.EBD.DEC: command, payload and whether the extended marker was stripped (41_framers.md R192, R193, R196). -/
def ebdDecode (p : Params) (expectAck : Bool) (rx : Bytes) : Except DecErr (Byte × Bytes × Bool) :=
  match ebdParse p rx with
  | .error e => .error e
  | .ok (ctl, data) =>
    if ackOf p ctl ≠ expectAck then .error .ackBit
    else
      let cmd := ctl &&& ~~~ackMask p
      match data with
      | m :: payload => if m = ebdMarker then .ok (cmd, payload, true) else .ok (cmd, data, false)
      | [] => .ok (cmd, [], false)

/-! ### Watchdog -/

/-- The watchdog header (00_scope.md R9; 30_encoding.md R102). -/
def wdgHeader : Bytes := [0x4F, 0x53, 0x50]

/-- The watchdog request frame (30_encoding.md R102). -/
def wdgFrame (cmd : Byte) : Bytes := wdgHeader ++ [cmd]

/-- FRM.WDG.ENC's frame, or none where the buffer is too small for it (41_framers.md R204). -/
def wdgEncode (p : Params) (cmd : Byte) : Option Bytes :=
  if 4 > p.txCap then none else some (wdgFrame cmd)

/-- FRM.WDG.DEC: the command of a watchdog request (41_framers.md R205). -/
def wdgDecode (rx : Bytes) : Except DecErr Byte :=
  match rx with
  | [a, b, c, cmd] => if [a, b, c] = wdgHeader then .ok cmd else .error .length
  | _ => .error .length

/-- FRM.WDG.CHK: the bytes 76 31 ("v1") stand next to each other somewhere in the reply (41_framers.md R206). -/
def wdgCheck : Bytes → Bool
  | a :: b :: rest => (a = 0x76 ∧ b = 0x31) ∨ wdgCheck (b :: rest)
  | _ => false

/-! ### The round trip -/

/-- The frame round trip of the four families within the bounds of 30_encoding.md R108: the encoder of a family accepts the
fields where its frame fits, and its decoder gives the same fields back from what it built (41_framers.md R166, R187,
R198, R205, R211). An EBDS payload that starts with the extended marker comes back without it (R196). -/
structure FrameRoundTrip (p : Params) : Prop where
  cctalk (dest src cmd : Byte) (payload : Bytes) : payload.length ≤ 255 → payload.length + 5 ≤ p.txCap →
    ∃ f, cctEncode p dest src cmd payload = some f ∧ cctDecode dest f = .ok (src, cmd, payload)
  ccnet (addr cmd : Byte) (payload : Bytes) : payload.length ≤ 249 → payload.length + 6 ≤ p.txCap →
    ∃ f, ccnEncode p addr cmd payload = some f ∧ ccnDecode p addr f = .frame cmd payload 0
  ebds (ack : Bool) (cmd : Byte) (payload : Bytes) : payload.length ≤ 250 → payload.length + 5 ≤ p.txCap →
    cmd &&& ackMask p = 0 → ∃ f, ebdEncode p ack cmd payload = some f ∧ ebdDecode p ack f =
      if payload.head? = some ebdMarker then .ok (cmd, payload.tail, true) else .ok (cmd, payload, false)
  watchdog (cmd : Byte) : 4 ≤ p.txCap → ∃ f, wdgEncode p cmd = some f ∧ wdgDecode f = .ok cmd

end Sys2Proof.Machine
end

