-- ==== Sys2Proof/Machine/AtText.lean ====
section
/-! DEFINITION. The AT line format and the USSD text chain (30_encoding.md R103 to R106; 44_at_decoder.md) as pure functions
over bytes. -/

namespace Sys2Proof.Machine

def cr : Byte := 0x0D
def lf : Byte := 0x0A
def ctrlZ : Byte := 0x1A
def quote : Byte := 0x22

/-- The terminator of an AT line (44_at_decoder.md R332). -/
def atTerminator (term : Bool) : Byte := if term then ctrlZ else cr

/-- Whether a text may be sent as one AT line: no CR or LF in it, and no Ctrl-Z where Ctrl-Z ends it (44_at_decoder.md
R332). -/
def atTextOk (text : Bytes) (term : Bool) : Bool :=
  text.all fun b => b ≠ cr ∧ b ≠ lf ∧ ¬ (term = true ∧ b = ctrlZ)

/-- The AT line of a text (30_encoding.md R103). -/
def atFrame (text : Bytes) (term : Bool) : Bytes := text ++ [atTerminator term]

/-- ATD.ENC's line, or none where it is refused (44_at_decoder.md R332). -/
def atEncode (p : Params) (text : Bytes) (term : Bool) : Option Bytes :=
  if text.length + 1 > p.txCap then none
  else if atTextOk text term then some (atFrame text term) else none

/-! ### The response -/

/-- The indices of the CRLF pairs of a buffer, ascending, counted from `i` (44_at_decoder.md R333). -/
def crlfIndices : (i : Nat) → Bytes → List Nat
  | i, a :: b :: rest =>
    if a = cr ∧ b = lf then i :: crlfIndices (i + 1) (b :: rest) else crlfIndices (i + 1) (b :: rest)
  | _, _ => []

/-- `s[from .. to-1]` of a byte sequence (00_scope.md R11). -/
def slice (bs : Bytes) (start stop : Nat) : Bytes := (bs.drop start).take (stop - start)

/-- A byte sequence cut at every CRLF pair, the pairs removed; `cur` holds the line under way, last byte first
(44_at_decoder.md R334). -/
def splitCrlf (cur : Bytes) : Bytes → List Bytes
  | [] => [cur.reverse]
  | [b] => [(b :: cur).reverse]
  | a :: b :: rest =>
    if a = cr ∧ b = lf then cur.reverse :: splitCrlf [] rest else splitCrlf (a :: cur) (b :: rest)

/-- The non-empty lines of a body (44_at_decoder.md R334). -/
def atLines (body : Bytes) : List Bytes := (splitCrlf [] body).filter fun l => l ≠ []

/-! The terminal strings of 30_encoding.md R105. -/

def strOk : Bytes := [0x4F, 0x4B]
def strError : Bytes := [0x45, 0x52, 0x52, 0x4F, 0x52]
def strBusy : Bytes := [0x42, 0x55, 0x53, 0x59]
def strNoCarrier : Bytes := [0x4E, 0x4F, 0x20, 0x43, 0x41, 0x52, 0x52, 0x49, 0x45, 0x52]
def strNoDialtone : Bytes := [0x4E, 0x4F, 0x20, 0x44, 0x49, 0x41, 0x4C, 0x54, 0x4F, 0x4E, 0x45]
def strNoAnswer : Bytes := [0x4E, 0x4F, 0x20, 0x41, 0x4E, 0x53, 0x57, 0x45, 0x52]
def strRing : Bytes := [0x52, 0x49, 0x4E, 0x47]
def strConnect : Bytes := [0x43, 0x4F, 0x4E, 0x4E, 0x45, 0x43, 0x54]

/-- The class of a terminal line (44_at_decoder.md R337). -/
def classify (t : Bytes) : AtClass :=
  if t = strOk ∨ strConnect.isPrefixOf t then .success
  else if t ∈ [strError, strBusy, strNoCarrier, strNoDialtone, strNoAnswer] then .failure
  else if t = strRing then .unsolicited
  else .unclassified

/-- ATD.DEC on a buffer: class, terminal line, information lines and body, or none where there are fewer than two CRLF
pairs (44_at_decoder.md R335, R336). -/
def atDecode (rx : Bytes) : Option (AtClass × Bytes × List Bytes × Bytes) :=
  match crlfIndices 0 rx with
  | a :: b :: more =>
    let body := slice rx (a + 2) ((b :: more).getLastD 0)
    let lines := atLines body
    match lines.getLast? with
    | none => some (.unclassified, [], [], body)
    | some term => some (classify term, term, lines.dropLast, body)
  | _ => none

/-! ### USSD text -/

/-- The envelope's opening, `+CUSD: 0,"` (30_encoding.md R106). -/
def cusdOpening : Bytes := [0x2B, 0x43, 0x55, 0x53, 0x44, 0x3A, 0x20, 0x30, 0x2C, 0x22]

/-- What follows the first occurrence of the envelope's opening (44_at_decoder.md R350, R351). -/
def afterOpening : Bytes → Option Bytes
  | [] => none
  | b :: rest =>
    if cusdOpening.isPrefixOf (b :: rest) then some ((b :: rest).drop cusdOpening.length)
    else afterOpening rest

/-- The bytes before the first closing quote, or none where the envelope is never closed (44_at_decoder.md R350). -/
def beforeQuote : Bytes → Option Bytes
  | [] => none
  | b :: rest => if b = quote then some [] else (beforeQuote rest).map (b :: ·)

/-- The text between the quotes of the envelope (44_at_decoder.md R350, R351). -/
def ussdRaw (rx : Bytes) : Option Bytes := (afterOpening rx).bind beforeQuote

/-- The value of a hexadecimal digit, either case (44_at_decoder.md R353). -/
def hexVal (b : Byte) : Option Nat :=
  let n := b.toNat
  if 0x30 ≤ n ∧ n ≤ 0x39 then some (n - 0x30)
  else if 0x41 ≤ n ∧ n ≤ 0x46 then some (n - 0x37)
  else if 0x61 ≤ n ∧ n ≤ 0x66 then some (n - 0x57)
  else none

/-- `hex_ok` (44_at_decoder.md R353). -/
def hexOk (raw : Bytes) : Bool :=
  raw ≠ [] ∧ raw.length % 2 = 0 ∧ raw.all fun b => (hexVal b).isSome

/-- `unhex`, of a sequence for which `hexOk` holds (44_at_decoder.md R353). -/
def unhex : Bytes → Bytes
  | a :: b :: rest => BitVec.ofNat 8 (16 * (hexVal a).getD 0 + (hexVal b).getD 0) :: unhex rest
  | _ => []

/-- An octet sequence as one bit string, least significant bit of the first octet first (44_at_decoder.md R356). -/
def bitString : Bytes → Nat
  | [] => 0
  | b :: rest => b.toNat + 256 * bitString rest

/-- Septet `k` of a bit string (44_at_decoder.md R356). -/
def septet (bits k : Nat) : Nat := bits / 2 ^ (7 * k) % 128

/-- The septets of an octet sequence (44_at_decoder.md R355, R356). -/
def gsm7Septets (octets : Bytes) : List Nat :=
  (List.range (8 * octets.length / 7)).map (septet (bitString octets))

/-- `GSM7_TABLE` at a septet, a 7-bit number (44_at_decoder.md R357; 00_scope.md R10). -/
def gsm7Char (p : Params) (septet : Nat) : Half := p.gsm7Table[septet % 128]

/-- `gsm7_decode` (44_at_decoder.md R355, R357). -/
def gsm7Decode (p : Params) (octets : Bytes) : List Half := (gsm7Septets octets).map (gsm7Char p)

/-- `ucs2_decode` (44_at_decoder.md R360). -/
def ucs2Decode : Bytes → List Half
  | hi :: lo :: rest => (hi ++ lo : BitVec 16) :: ucs2Decode rest
  | _ => []

/-- `USSD_MATCH` of an instance (44_at_decoder.md R352): a settled value where the table has one, else the free function. -/
def ussdMatch (p : Params) (text : List Half) : Option (List Half) :=
  (p.ussdTable.lookup text).getD (Config.ussdMatch text)

/-- A match that counts: present and not empty (44_at_decoder.md R350, R352). -/
def ussdHit (p : Params) (text : List Half) : Option (List Half) :=
  (ussdMatch p text).filter fun m => m ≠ []

/-- The three stages of the USSD chain on the envelope's text (44_at_decoder.md R350). -/
def ussdChain (p : Params) (raw : Bytes) : List Half × UssdStage :=
  match ussdHit p (raw.map fun b => b.setWidth 16) with
  | some m => (m, .plain)
  | none =>
    match (if hexOk raw then ussdHit p (gsm7Decode p (unhex raw)) else none) with
    | some m => (m, .gsm7)
    | none =>
      match (if hexOk raw ∧ raw.length % 4 = 0 then ussdHit p (ucs2Decode (unhex raw)) else none) with
      | some m => (m, .ucs2)
      | none => ([], .none)

end Sys2Proof.Machine
end

