-- ==== Sys2Proof/WellFormed.lean ====
section
/-! DEFINITION. Which instructions have an encoding: a byte sequence of a request must have a length its two-byte length
field can hold (log 1), and a frame on the wire must be one its format can describe (30_encoding.md R90 to R103, R108). -/

namespace Sys2Proof

/-- The longest byte sequence a request can carry (log 1). -/
def maxSeq : Nat := 65535

/-- The payload bounds of 30_encoding.md R108. -/
def maxCctPayload : Nat := 255
def maxCcnPayload : Nat := 249
def maxEbdPayload : Nat := 250

/-- The instruction has an encoding. Operands that an operation itself refuses (SizeError) are well formed. -/
abbrev WellFormed (i : Instr) : Prop :=
  match i with
  | .frmLoad bytes => bytes.length ≤ maxSeq
  | .frmCctEnc _ _ _ payload => payload.length ≤ maxSeq
  | .frmCcnEnc _ _ payload => payload.length ≤ maxSeq
  | .frmEbdEnc _ payload => payload.length ≤ maxSeq
  | .sesExchange cmd payload => cmd.length ≤ maxSeq ∧ payload.length ≤ maxSeq
  | .atdEnc text _ => text.length ≤ maxSeq
  | .wireCctalk _ _ _ payload => payload.length ≤ maxCctPayload
  | .wireCcnet _ _ payload => payload.length ≤ maxCcnPayload
  | .wireEbds _ data => data.length ≤ maxEbdPayload
  | .wireAt text term => Machine.atTextOk text term = true
  | .sysReset | .chkS8Init | .chkS8Upd _ | .chkS8Fin | .chkC16Init | .chkC16Upd _ | .chkC16Fin
  | .chkX8Init | .chkX8Upd _ | .chkX8Fin | .frmCctDec _ | .frmCcnDec _ | .frmEbdDec _ | .frmWdgEnc _
  | .frmWdgDec | .frmWdgChk | .sesProbe | .sesStart | .sesStop | .sesClose | .sesStopreq | .sesCycle _
  | .escCfg _ _ | .escDberr _ | .escPoll _ _ | .atdDec | .atdUssd | .wireWatchdog _ => True

/-- The instruction is a frame on the line and not an operation (30_encoding.md, opening). -/
def isWire : Instr → Bool
  | .wireCctalk .. | .wireCcnet .. | .wireEbds .. | .wireWatchdog _ | .wireAt .. => true
  | .sysReset | .chkS8Init | .chkS8Upd _ | .chkS8Fin | .chkC16Init | .chkC16Upd _ | .chkC16Fin
  | .chkX8Init | .chkX8Upd _ | .chkX8Fin | .frmLoad _ | .frmCctEnc .. | .frmCctDec _ | .frmCcnEnc ..
  | .frmCcnDec _ | .frmEbdEnc .. | .frmEbdDec _ | .frmWdgEnc _ | .frmWdgDec | .frmWdgChk | .sesProbe
  | .sesStart | .sesStop | .sesClose | .sesExchange .. | .sesStopreq | .sesCycle _ | .escCfg ..
  | .escDberr _ | .escPoll .. | .atdEnc .. | .atdDec | .atdUssd => false

/-- The protocol family whose frames a wire instruction is one of. -/
def wireProto : Instr → Option Proto
  | .wireCctalk .. => some .cctalk
  | .wireCcnet .. => some .ccnet
  | .wireEbds .. => some .ebds
  | .wireWatchdog _ => some .wdg
  | .wireAt .. => some .at
  | .sysReset | .chkS8Init | .chkS8Upd _ | .chkS8Fin | .chkC16Init | .chkC16Upd _ | .chkC16Fin
  | .chkX8Init | .chkX8Upd _ | .chkX8Fin | .frmLoad _ | .frmCctEnc .. | .frmCctDec _ | .frmCcnEnc ..
  | .frmCcnDec _ | .frmEbdEnc .. | .frmEbdDec _ | .frmWdgEnc _ | .frmWdgDec | .frmWdgChk | .sesProbe
  | .sesStart | .sesStop | .sesClose | .sesExchange .. | .sesStopreq | .sesCycle _ | .escCfg ..
  | .escDberr _ | .escPoll .. | .atdEnc .. | .atdDec | .atdUssd => none

end Sys2Proof
end

