-- ==== Sys2Proof/Decode.lean ====
section
/-! DEFINITION. Decoding and encoding. A request is one byte of op-select code (30_encoding.md R110) followed by the operands
in the order of that table; how they are packed is the model's choice, which the spec leaves to the integration (log 1): a
byte as itself, a bit as 00 or 01, a 32-bit number least significant byte first, a byte sequence as its length in two bytes,
low byte first, and then its bytes, a PollState as its tag code and its 32-bit argument. A frame on the line is read in the
format of the instance's protocol family (30_encoding.md R90 to R107). -/

namespace Sys2Proof

/-- Why the bytes of a request are no instruction. -/
inductive DecodeError where
  /-- The op-select code is not in 30_encoding.md R110 (R120): the operation is refused with status ILLEGAL. -/
  | undefinedOp (op : Byte)
  /-- The request is empty or ends before its operands do (log 2). -/
  | truncated
  /-- A bit operand is neither 00 nor 01 (log 2). -/
  | badBit (b : Byte)
  /-- A PollState operand is none of 43_escrow.md R270 (log 2). -/
  | badPollState (tag : Byte)
deriving DecidableEq, Repr

namespace Decode

/-! ### Operands -/

def takeByte : Bytes → Except DecodeError (Byte × Bytes)
  | [] => .error .truncated
  | b :: r => .ok (b, r)

def takeBit : Bytes → Except DecodeError (Bool × Bytes)
  | [] => .error .truncated
  | b :: r => if b = 0 then .ok (false, r) else if b = 1 then .ok (true, r) else .error (.badBit b)

/-- A bit that is 0 where the request ends before it (44_at_decoder.md R332: `term` has default 0). -/
def takeBitOrZero : Bytes → Except DecodeError (Bool × Bytes)
  | [] => .ok (false, [])
  | b :: r => takeBit (b :: r)

def takeWord : Bytes → Except DecodeError (Word × Bytes)
  | a :: b :: c :: d :: r => .ok (d ++ c ++ b ++ a, r)
  | _ => .error .truncated

/-- The first `n` bytes and the bytes after them. -/
def splitExact : Nat → Bytes → Except DecodeError (Bytes × Bytes)
  | 0, r => .ok ([], r)
  | _ + 1, [] => .error .truncated
  | n + 1, b :: r =>
    match splitExact n r with
    | .ok (bs, rest) => .ok (b :: bs, rest)
    | .error e => .error e

def takeSeq : Bytes → Except DecodeError (Bytes × Bytes)
  | lo :: hi :: r => splitExact (lo.toNat + 256 * hi.toNat) r
  | _ => .error .truncated

def takePollState (bs : Bytes) : Except DecodeError (PollState × Bytes) := do
  let (tag, r) ← takeByte bs
  let (arg, r) ← takeWord r
  match PollState.ofTag tag.toNat arg with
  | some st => .ok (st, r)
  | none => .error (.badPollState tag)

def packBit (b : Bool) : Bytes := [if b then 1 else 0]

def packWord (w : Word) : Bytes :=
  [w.setWidth 8, (w >>> 8).setWidth 8, (w >>> 16).setWidth 8, (w >>> 24).setWidth 8]

def packSeq (bs : Bytes) : Bytes :=
  BitVec.ofNat 8 bs.length :: BitVec.ofNat 8 (bs.length / 256) :: bs

def packPollState (st : PollState) : Bytes := st.tag :: packWord st.arg

/-! ### Requests -/

/-- The operands of the operation with op-select code `op` (30_encoding.md R110), and the bytes after them. -/
def operands (op : Byte) (r : Bytes) : Except DecodeError (Instr × Bytes) :=
  match op.toNat with
  | 0x00 => .ok (.sysReset, r)
  | 0x10 => .ok (.chkS8Init, r)
  | 0x11 => do let (b, r) ← takeByte r; .ok (.chkS8Upd b, r)
  | 0x12 => .ok (.chkS8Fin, r)
  | 0x14 => .ok (.chkC16Init, r)
  | 0x15 => do let (b, r) ← takeByte r; .ok (.chkC16Upd b, r)
  | 0x16 => .ok (.chkC16Fin, r)
  | 0x18 => .ok (.chkX8Init, r)
  | 0x19 => do let (b, r) ← takeByte r; .ok (.chkX8Upd b, r)
  | 0x1A => .ok (.chkX8Fin, r)
  | 0x20 => do let (bs, r) ← takeSeq r; .ok (.frmLoad bs, r)
  | 0x22 => do
    let (dest, r) ← takeByte r
    let (src, r) ← takeByte r
    let (cmd, r) ← takeByte r
    let (payload, r) ← takeSeq r
    .ok (.frmCctEnc dest src cmd payload, r)
  | 0x23 => do let (d, r) ← takeByte r; .ok (.frmCctDec d, r)
  | 0x24 => do
    let (addr, r) ← takeByte r
    let (cmd, r) ← takeByte r
    let (payload, r) ← takeSeq r
    .ok (.frmCcnEnc addr cmd payload, r)
  | 0x25 => do let (a, r) ← takeByte r; .ok (.frmCcnDec a, r)
  | 0x26 => do
    let (cmd, r) ← takeByte r
    let (payload, r) ← takeSeq r
    .ok (.frmEbdEnc cmd payload, r)
  | 0x27 => do let (a, r) ← takeBit r; .ok (.frmEbdDec a, r)
  | 0x28 => do let (cmd, r) ← takeByte r; .ok (.frmWdgEnc cmd, r)
  | 0x29 => .ok (.frmWdgDec, r)
  | 0x2A => .ok (.frmWdgChk, r)
  | 0x30 => .ok (.sesProbe, r)
  | 0x31 => .ok (.sesStart, r)
  | 0x32 => .ok (.sesStop, r)
  | 0x33 => .ok (.sesClose, r)
  | 0x34 => do
    let (cmd, r) ← takeSeq r
    let (payload, r) ← takeSeq r
    .ok (.sesExchange cmd payload, r)
  | 0x35 => .ok (.sesStopreq, r)
  | 0x36 => do let (now, r) ← takeWord r; .ok (.sesCycle now, r)
  | 0x40 => do
    let (maxSum, r) ← takeWord r
    let (rej, r) ← takeBit r
    .ok (.escCfg maxSum rej, r)
  | 0x41 => do let (flag, r) ← takeBit r; .ok (.escDberr flag, r)
  | 0x42 => do
    let (st, r) ← takePollState r
    let (now, r) ← takeWord r
    .ok (.escPoll st now, r)
  | 0x50 => do
    let (text, r) ← takeSeq r
    let (term, r) ← takeBitOrZero r
    .ok (.atdEnc text term, r)
  | 0x51 => .ok (.atdDec, r)
  | 0x52 => .ok (.atdUssd, r)
  | _ => .error (.undefinedOp op)

/-- The instruction a request asks for, and the bytes after its operands. -/
def request : Bytes → Except DecodeError (Instr × Bytes)
  | [] => .error .truncated
  | op :: r => operands op r

/-! ### Frames on the line -/

/-- The CCNET frame that is the whole of a byte sequence (30_encoding.md R94 to R96). -/
def wholeCcnet (p : Params) (bs : Bytes) : Option Instr :=
  match bs with
  | _ :: _ :: len :: _ =>
    if len.toNat = bs.length then
      match Machine.ccnCandidate p bs with
      | .valid addr cmd payload => some (.wireCcnet addr cmd payload)
      | .crcFailed | .dropped => none
    else none
  | _ => none

/-- The cctalk frame that is the whole of a byte sequence (30_encoding.md R90 to R92). -/
def wholeCctalk (bs : Bytes) : Option Instr :=
  match bs with
  | [] => none
  | dest :: _ =>
    match Machine.cctDecode dest bs with
    | .ok (src, cmd, payload) => some (.wireCctalk dest src cmd payload)
    | .error _ => none

/-- The EBDS frame that is the whole of a byte sequence (30_encoding.md R97 to R100). -/
def wholeEbds (p : Params) (bs : Bytes) : Option Instr :=
  match Machine.ebdParse p bs with
  | .ok (ctl, data) => some (.wireEbds ctl data)
  | .error _ => none

/-- The watchdog frame that is the whole of a byte sequence (30_encoding.md R102). -/
def wholeWatchdog (bs : Bytes) : Option Instr :=
  match Machine.wdgDecode bs with
  | .ok cmd => some (.wireWatchdog cmd)
  | .error _ => none

/-- The AT line that is the whole of a byte sequence (30_encoding.md R103). -/
def wholeAt (bs : Bytes) : Option Instr :=
  match bs.getLast? with
  | none => none
  | some t =>
    let text := bs.dropLast
    if t = Machine.cr ∧ Machine.atTextOk text false then some (.wireAt text false)
    else if t = Machine.ctrlZ ∧ Machine.atTextOk text true then some (.wireAt text true)
    else none

/-- The frame of the instance's family that a burst of bytes is, or none where it is no such frame. -/
def wire (p : Params) (bs : Bytes) : Option Instr :=
  match p.proto with
  | .cctalk => wholeCctalk bs
  | .ccnet => wholeCcnet p bs
  | .ebds => wholeEbds p bs
  | .wdg => wholeWatchdog bs
  | .at => wholeAt bs

end Decode

/-! ### The encoder -/

/-- The bytes of an instruction: a request for an operation, the frame for a wire instruction. -/
def encode (p : Params) (i : Instr) : Bytes :=
  match i with
  | .sysReset => [0x00]
  | .chkS8Init => [0x10]
  | .chkS8Upd b => [0x11, b]
  | .chkS8Fin => [0x12]
  | .chkC16Init => [0x14]
  | .chkC16Upd b => [0x15, b]
  | .chkC16Fin => [0x16]
  | .chkX8Init => [0x18]
  | .chkX8Upd b => [0x19, b]
  | .chkX8Fin => [0x1A]
  | .frmLoad bytes => 0x20 :: Decode.packSeq bytes
  | .frmCctEnc dest src cmd payload => [0x22, dest, src, cmd] ++ Decode.packSeq payload
  | .frmCctDec d => [0x23, d]
  | .frmCcnEnc addr cmd payload => [0x24, addr, cmd] ++ Decode.packSeq payload
  | .frmCcnDec a => [0x25, a]
  | .frmEbdEnc cmd payload => [0x26, cmd] ++ Decode.packSeq payload
  | .frmEbdDec a => 0x27 :: Decode.packBit a
  | .frmWdgEnc cmd => [0x28, cmd]
  | .frmWdgDec => [0x29]
  | .frmWdgChk => [0x2A]
  | .sesProbe => [0x30]
  | .sesStart => [0x31]
  | .sesStop => [0x32]
  | .sesClose => [0x33]
  | .sesExchange cmd payload => 0x34 :: (Decode.packSeq cmd ++ Decode.packSeq payload)
  | .sesStopreq => [0x35]
  | .sesCycle now => 0x36 :: Decode.packWord now
  | .escCfg maxSum rej => 0x40 :: (Decode.packWord maxSum ++ Decode.packBit rej)
  | .escDberr flag => 0x41 :: Decode.packBit flag
  | .escPoll st now => 0x42 :: (Decode.packPollState st ++ Decode.packWord now)
  | .atdEnc text term => 0x50 :: (Decode.packSeq text ++ Decode.packBit term)
  | .atdDec => [0x51]
  | .atdUssd => [0x52]
  | .wireCctalk dest src cmd payload => Machine.cctFrame dest src cmd payload
  | .wireCcnet addr cmd payload => Machine.ccnFrame p addr cmd payload
  | .wireEbds ctl data => Machine.ebdFrame p ctl data
  | .wireWatchdog cmd => Machine.wdgFrame cmd
  | .wireAt text term => Machine.atFrame text term

/-! ### Words of the opcode table -/

/-- The bytes of a table word, least significant first, followed by zeros to the length of the longest request. -/
def tableBytes (nbits w : Nat) : Bytes :=
  ((List.range ((nbits + 7) / 8)).map fun k => BitVec.ofNat 8 (w >>> (8 * k))) ++
    List.replicate (2 * maxSeq + 16) 0

/-- The instruction the decoder reads from an instruction whose bits are `w`, every bit above `nbits` zero. -/
def decodeTableWord (nbits w : Nat) : Option Instr :=
  match Decode.request (tableBytes nbits w) with
  | .ok (i, _) => some i
  | .error _ => none

end Sys2Proof
end

