-- ==== Sys2Proof/Machine/State.lean ====
section
/-! DEFINITION. The state of one instance (10_state.md R20), its reset values (70_reset_and_hazards.md R421), the status
codes, events and results, and the reasons the machine can stop. State is plain data. -/

namespace Sys2Proof.Machine

/-- A buffer's contents as (index, byte) cells: indices strictly rising, and an index that is not listed holds no value
(10_state.md R25, R26; 93_implementation_defined.md U1). -/
abbrev Memory := List Host.Cell

/-- The session state (10_state.md R32). -/
inductive SesState where
  | closed | probing | identified | polling
deriving DecidableEq, Repr, Inhabited

/-- The position inside an exchange (10_state.md R33). -/
inductive RtyState where
  | idle | write | read | decode
deriving DecidableEq, Repr, Inhabited

/-- The status an operation ends with (60_exceptions.md R380). -/
inductive Status where
  | ok | checksumError | lengthError | addressError | ackBitError | exhausted | timeout | portError | notFound
  | sizeError | illegal
deriving DecidableEq, Repr, Inhabited

/-- The number of a status code (60_exceptions.md R380). -/
def Status.code : Status → Byte
  | .ok => 0x00 | .checksumError => 0x01 | .lengthError => 0x02 | .addressError => 0x03 | .ackBitError => 0x04
  | .exhausted => 0x05 | .timeout => 0x06 | .portError => 0x07 | .notFound => 0x08 | .sizeError => 0x09
  | .illegal => 0x0A

/-- An event of EVQ (60_exceptions.md R390). -/
inductive Event where
  | nominalAccepted (value : Word)
  | nominalDuplicate (value : Word)
  | statusChanged (code : Byte) (arg : Word)
deriving DecidableEq, Repr, Inhabited

/-- The sub-result `last` of Exhausted: the kind of reply that ended the exchange (60_exceptions.md R380). -/
inductive LastReply where
  | error (e : DecErr)
  | nakBusy
deriving DecidableEq, Repr, Inhabited

/-- Why an exchange ended without an answer (42_exchange_retry.md R230). -/
inductive ExchErr where
  | illegal
  | sizeError
  | portError
  | timeout
  | exhausted (last : LastReply)
deriving DecidableEq, Repr, Inhabited

/-- How an exchange ended (42_exchange_retry.md R230). -/
inductive ExchEnd where
  | answer (r : Reply)
  | failed (e : ExchErr)
deriving DecidableEq, Repr, Inhabited

/-- What an operation returns beside its status code (30_encoding.md R110; the `info` of a raise, 00_scope.md R13). -/
inductive Result where
  | none
  | byte (v : Byte)
  | half (v : Half)
  | reply (r : Reply)
  | wdgCommand (cmd : Byte)
  | wrongAddress (offset : Nat)
  | exhausted (last : LastReply)
  | ident (r : Reply) (replies : List ExchEnd)
  | cycle (done repoll : Bool)
  | cycleExhausted (last : LastReply) (done repoll : Bool)
  | decision (cmd : EscCmd) (repoll : Bool)
  | ussd (text : List Half) (stage : UssdStage)
deriving DecidableEq, Repr, Inhabited

/-- The direction of a traced byte sequence (20_memory.md R79). -/
inductive Direction where
  | tx | rx
deriving DecidableEq, Repr, Inhabited

/-- What reaches the block between operations: a request of the host, bytes from the device, the removal of the event at
the head of EVQ (00_scope.md R6; 10_state.md R50; log 3, log 10, log 19). -/
inductive Input where
  | request (bytes : Bytes)
  | line (bytes : Bytes)
  | takeEvent
deriving DecidableEq, Repr, Inhabited

/-- The state of one instance. -/
structure State where
  /-- CHK unit (10_state.md R22 to R24). -/
  acc8 : Byte
  crc : Half
  accx : Byte
  /-- FRM unit (10_state.md R25 to R27, R30). -/
  txbuf : Memory
  txLen : Nat
  rxbuf : Memory
  rxLen : Nat
  ebdAck : Bool
  fExt : Bool
  fResync : Bool
  /-- SES unit (10_state.md R30 to R37). -/
  fNakExh : Bool
  fErrExh : Bool
  lastErr : Byte
  sesState : SesState
  rtyState : RtyState
  nakCnt : Byte
  errCnt : Byte
  portOpen : Bool
  devAvail : Bool
  stopPoll : Bool
  /-- ESC unit (10_state.md R30, R40 to R46). -/
  fSumOvf : Bool
  maxSum : Word
  rejectAboveMax : Bool
  accSum : Word
  hasDbError : Bool
  escPrev : Option PollState
  escrowed : Bool
  lastEscTime : Word
  lastCmd : EscCmd
  pendAcc : Bool
  /-- The event queue, oldest first (10_state.md R50). -/
  evq : List Event
  /-- The serial streams (20_memory.md R60, R66 to R69). -/
  serialTx : Bytes
  serialRx : Bytes
  /-- The parameters of the instance (00_scope.md R10; log 4). -/
  params : Params
  /-- The model's own fields: results (log 8), trace (log 9), inputs (log 3), the environment's answers (log 6). -/
  result : Result
  trace : List (Direction × Bytes)
  pending : List Input
  openScript : List Bool
  writeScript : List Bool
  readScript : List Bytes
  portCalls : Nat
deriving DecidableEq, Repr

/-- Why the machine stops. -/
inductive Fault where
  /-- A byte of RXBUF below `rx_len` that holds no value was read (00_scope.md R12; 93_implementation_defined.md U1). Raised
  by the decode operations; safe: no state reached from reset raises it. -/
  | unwrittenByte
deriving DecidableEq, Repr

/-- Why the machine gives a request no meaning. -/
inductive Refusal where
  /-- The instruction has no meaning yet. Raised by an arm of `exec`; safe. -/
  | notModelled (mnemonic : String)
  /-- The bytes at the request port are no packing of an operation's operands (93_implementation_defined.md U11; log 2).
  Raised by the fetch; safe. -/
  | malformedRequest (e : DecodeError)
deriving DecidableEq, Repr

/-- Power-on: every register at the value of 70_reset_and_hazards.md R421; the model's own fields empty (log 23). -/
def State.reset : State where
  acc8 := 0x00
  crc := Config.instanceParams.crcInit
  accx := 0x00
  txbuf := []
  txLen := 0
  rxbuf := []
  rxLen := 0
  ebdAck := false
  fExt := false
  fResync := false
  fNakExh := false
  fErrExh := false
  lastErr := 0x00
  sesState := .closed
  rtyState := .idle
  nakCnt := 0
  errCnt := 0
  portOpen := false
  devAvail := false
  stopPoll := false
  fSumOvf := false
  maxSum := 0
  rejectAboveMax := false
  accSum := 0
  hasDbError := false
  escPrev := none
  escrowed := false
  lastEscTime := 0
  lastCmd := .none
  pendAcc := false
  evq := []
  serialTx := []
  serialRx := []
  params := Config.instanceParams
  result := .none
  trace := []
  pending := []
  openScript := []
  writeScript := []
  readScript := []
  portCalls := 0

end Sys2Proof.Machine
end

