-- ==== Sys2Proof/Machine/Ops.lean ====
section
/-! DEFINITION. The named operations over buffers, port, status, events and trace that the meanings share. -/

namespace Sys2Proof.Machine

/-! ### Buffers (20_memory.md R60; 00_scope.md R12) -/

/-- The byte at an index of a buffer, or none where the index holds no value. -/
def Memory.read (m : Memory) (a : Nat) : Option Byte := m.lookup a

/-- The cells of a byte sequence stored from an index on. -/
def Memory.cellsFrom (a : Nat) : Bytes → Memory
  | [] => []
  | b :: bs => (a, b) :: Memory.cellsFrom (a + 1) bs

/-- MemWrite(B, 0, n, bytes): the buffer after a byte sequence is stored at index 0; what lay beyond holds no value
(93_implementation_defined.md U1; log 11). -/
def Memory.store (bytes : Bytes) : Memory := Memory.cellsFrom 0 bytes

/-- MemRead(B, a, n): the bytes at `n` indices from `a` on, or none where one of them holds no value (00_scope.md R12). -/
def Memory.readMany (m : Memory) : (a n : Nat) → Option Bytes
  | _, 0 => some []
  | a, n + 1 =>
    match m.read a, Memory.readMany m (a + 1) n with
    | some b, some bs => some (b :: bs)
    | _, _ => none

/-- The canonical form of a buffer: its indices strictly rise (so each is listed once), and since an unlisted index holds
no value no entry is redundant. -/
def Memory.wf : Memory → Bool
  | [] => true
  | [_] => true
  | c :: d :: rest => c.1 < d.1 && Memory.wf (d :: rest)

/-- An encoder's store: TXBUF and `tx_len` (10_state.md R25). -/
def State.putTx (s : State) (bytes : Bytes) : State :=
  { s with txbuf := Memory.store bytes, txLen := bytes.length }

/-- A receive: RXBUF and `rx_len` (10_state.md R26; 42_exchange_retry.md R232). -/
def State.putRx (s : State) (bytes : Bytes) : State :=
  { s with rxbuf := Memory.store bytes, rxLen := bytes.length }

/-- The valid bytes of TXBUF, `TXBUF[0 .. tx_len-1]` (10_state.md R25). -/
def State.txBytes (s : State) : Option Bytes := s.txbuf.readMany 0 s.txLen

/-- The valid bytes of RXBUF, `RXBUF[0 .. rx_len-1]` (10_state.md R26). -/
def State.rxBytes (s : State) : Option Bytes := s.rxbuf.readMany 0 s.rxLen

/-! ### Status: how every operation ends (60_exceptions.md R380, R383, R400) -/

/-- The end of a top-level operation: `last_err` receives the status code, the result goes to the host
(60_exceptions.md R383). -/
def State.complete (s : State) (st : Status) (r : Result) : State :=
  { s with lastErr := st.code, result := r }

/-- `return`: the operation ends with status OK (00_scope.md R13). -/
def State.succeed (s : State) (r : Result) : State := s.complete .ok r

/-- `raise`: the exception of this hardware, a non-OK status. It is no transfer of control: the operation ends with the
state writes made before it, and the block is ready for the next one (00_scope.md R13; 60_exceptions.md R400). There is no
return from it (60_exceptions.md R401). -/
def State.raise (s : State) (st : Status) (info : Result) : State := s.complete st info

/-- `refuse`: status ILLEGAL and no other state change (60_exceptions.md R406). -/
def State.refuse (s : State) : State := s.raise .illegal .none

/-- The status a checksum-class error is raised as (60_exceptions.md R380). -/
def decErrStatus : DecErr → Status
  | .checksum => .checksumError
  | .length => .lengthError
  | .address => .addressError
  | .ackBit => .ackBitError

/-! ### Events and trace -/

/-- `emit`: one event at the tail of EVQ (10_state.md R50). -/
def State.emit (s : State) (e : Event) : State := { s with evq := s.evq ++ [e] }

/-- `trace(direction, bytes)`: forwarded to the sink if and only if polling (20_memory.md R79). -/
def State.traced (s : State) (d : Direction) (bytes : Bytes) : State :=
  if s.sesState = .polling then { s with trace := s.trace ++ [(d, bytes)] } else s

/-! ### The port (20_memory.md R66 to R69). The environment's answer is the next one of its script, and past the script a
free value (log 6). -/

/-- The environment's answer to the next PortOpen. -/
def State.openAnswer (s : State) : Bool :=
  match s.openScript with
  | a :: _ => a
  | [] => Config.portOpenOk s.portCalls

/-- The environment's answer to the next PortWrite. -/
def State.writeAnswer (s : State) : Bool :=
  match s.writeScript with
  | a :: _ => a
  | [] => Config.portWriteOk s.portCalls

/-- The bytes that arrive during the next PortRead. -/
def State.arrivals (s : State) (timeoutMs : Nat) : Bytes :=
  match s.readScript with
  | bs :: _ => bs
  | [] => Config.portArrivals timeoutMs s.portCalls

/-- PortOpen: whether it succeeded; on success the port is open and the RX stream is empty (20_memory.md R69). -/
def State.openPort (s : State) : Bool × State :=
  let s' := { s with openScript := s.openScript.tail, portCalls := s.portCalls + 1 }
  if s.openAnswer then (true, { s' with portOpen := true, serialRx := [] }) else (false, s')

/-- PortWrite: whether it succeeded; on success every byte is on the TX stream, on failure an unspecified number of them
(20_memory.md R66; 93_implementation_defined.md U3). -/
def State.writePort (s : State) (bytes : Bytes) : Bool × State :=
  let s' := { s with writeScript := s.writeScript.tail, portCalls := s.portCalls + 1 }
  if s.writeAnswer then (true, { s' with serialTx := s.serialTx ++ bytes })
  else (false, { s' with serialTx := s.serialTx ++ bytes.take (Config.portWriteReached s.portCalls) })

/-- PortRead: at most `max` bytes from the head of what has arrived by the timeout; the rest stays in the RX stream
(20_memory.md R67, R72). -/
def State.readPort (s : State) (max timeoutMs : Nat) : Bytes × State :=
  let arrived := s.serialRx ++ s.arrivals timeoutMs
  (arrived.take max,
    { s with serialRx := arrived.drop max, readScript := s.readScript.tail, portCalls := s.portCalls + 1 })

/-- PortClose: the port is released and unread bytes are discarded; it cannot fail (20_memory.md R68). -/
def State.closePort (s : State) : State := { s with portOpen := false, serialRx := [] }

/-- Bytes from the device: they join the RX stream while the port is open and are not seen while it is closed
(20_memory.md R67, R69; 70_reset_and_hazards.md R422 (b); log 10). -/
def State.deliver (s : State) (bytes : Bytes) : State :=
  if s.portOpen then { s with serialRx := s.serialRx ++ bytes } else s

/-! ### Shared resets -/

/-- `esc_reset()` (43_escrow.md R271). -/
def State.escReset (s : State) : State :=
  { s with accSum := 0, fSumOvf := false, escPrev := none, escrowed := false, lastCmd := .none, pendAcc := false }

/-- `teardown()` (42_exchange_retry.md R239). -/
def State.teardown (s : State) : State :=
  { s.closePort with sesState := .closed, devAvail := false }.escReset

/-- Every register of 10_state.md R20 at its reset value and EVQ empty; what is no register of the block stays
(70_reset_and_hazards.md R420 to R422; log 22). -/
def State.resetRegisters (s : State) : State :=
  { s with
    acc8 := 0x00, crc := s.params.crcInit, accx := 0x00
    txbuf := [], txLen := 0, rxbuf := [], rxLen := 0
    ebdAck := false, fExt := false, fResync := false, fNakExh := false, fErrExh := false, fSumOvf := false
    lastErr := 0x00, sesState := .closed, rtyState := .idle, nakCnt := 0, errCnt := 0
    portOpen := false, devAvail := false, stopPoll := false
    maxSum := 0, rejectAboveMax := false, accSum := 0, hasDbError := false
    escPrev := none, escrowed := false, lastEscTime := 0, lastCmd := .none, pendAcc := false
    evq := [] }

end Sys2Proof.Machine
end

