-- ==== Sys2Proof/Machine/Operands.lean ====
section
/-! DEFINITION. Operand forms: the buffer a decode operation reads, the command operand of an exchange, and the parameters
that a meaning looks up by protocol family. -/

namespace Sys2Proof.Machine

/-- The implicit operand of a decode operation, the valid bytes of RXBUF, given to what the operation does with them. A byte
that holds no value stops the machine (93_implementation_defined.md U1). -/
def withRx (s : State) (k : Bytes → State) : Host.Outcome State Fault Refusal :=
  match s.rxBytes with
  | some rx => .next (k rx)
  | none => .fault .unwrittenByte

/-- `MAX_NAK[PROTO]` (00_scope.md R9, R10; log 13). -/
def maxNak (p : Params) : Nat :=
  match p.proto with
  | .cctalk | .ccnet => Config.fixedRetryBound
  | .ebds | .wdg | .at => p.otherMaxNak

/-- `MAX_ERR[PROTO]` (00_scope.md R9, R10; log 13). -/
def maxErr (p : Params) : Nat :=
  match p.proto with
  | .cctalk | .ccnet => Config.fixedRetryBound
  | .ebds | .wdg | .at => p.otherMaxErr

/-- `INTERPRET` of an instance (43_escrow.md R272): a settled value where the table has one, else the free function
(log 5). -/
def interpret (p : Params) (r : Reply) : PollState :=
  (p.interpTable.lookup r).getD (Config.interpret p.proto r)

/-- `CCN_NAKBUSY` and `EBD_NAKBUSY` of an instance (42_exchange_retry.md R233; log 5). -/
def paramNakBusy (p : Params) (r : Reply) : Bool :=
  (p.nakTable.lookup r).getD (Config.nakBusy p.proto r)

/-- Whether a decoded reply is NAK/BUSY (42_exchange_retry.md R233). -/
def nakBusy (p : Params) (r : Reply) : Bool :=
  match r with
  | .cct _ cmd payload => cctNakBusy p.cctNakBusyField cmd payload
  | .ccn .. | .ebd .. => paramNakBusy p r
  | .wdg | .at .. => false

/-- The frame an exchange sends for its operands, or none where the encoder of the family refuses them with SizeError. A
command is one byte, or a text when PROTO = AT; a command of another length fits no binary frame (42_exchange_retry.md
R230; log 12). -/
def encodeExchange (p : Params) (ack : Bool) (cmd payload : Bytes) : Option Bytes :=
  match p.proto, cmd with
  | .cctalk, [c] => cctEncode p p.cctDevAddr p.cctHostAddr c payload
  | .ccnet, [c] => ccnEncode p p.ccnAddr c payload
  | .ebds, [c] => ebdEncode p ack c payload
  | .wdg, [c] => if payload ≠ [] then none else wdgEncode p c
  | .at, text => if payload ≠ [] then none else atEncode p text false
  | .cctalk, _ | .ccnet, _ | .ebds, _ | .wdg, _ => none

/-- `CMD_IDENT` of an instance: for CCNET it is the poll command (42_exchange_retry.md R240, R244). -/
def identCommand (p : Params) : Bytes :=
  match p.proto with
  | .ccnet => p.cmdPoll
  | .cctalk | .ebds | .wdg | .at => p.cmdIdent

/-- Whether a decoded reply carries the identity signature of the family (42_exchange_retry.md R243 to R246). -/
def signature (p : Params) (r : Reply) : Bool :=
  match r with
  | .cct src _ payload => payload = [] ∧ src = 0x02
  | .ccn cmd _ _ => cmd ≠ p.ccnFailByte
  | .ebd _ payload => payload ≠ []
  | .wdg => true
  | .at cls _ _ _ => cls = .success

end Sys2Proof.Machine
end

