-- ==== Sys2Proof/Machine/Flags.lean ====
section
/-! DEFINITION. The five status flags (10_state.md R30) and the decoders that write two of them: outputs only, no operation
reads a flag to decide anything. -/

namespace Sys2Proof.Machine

/-- `f_resync` after FRM.CCN.DEC: set when the accepted candidate does not start at index 0 (41_framers.md R178, R180). -/
def resyncFlag (d : CcnDecoded) : Bool :=
  match d with
  | .frame _ _ offset => offset > 0
  | .wrongAddress _ | .failed _ => false

/-- `f_ext` after FRM.EBD.DEC: set when the extended marker was stripped (41_framers.md R192, R196). -/
def extFlag (d : Except DecErr (Byte × Bytes × Bool)) : Bool :=
  match d with
  | .ok (_, _, ext) => ext
  | .error _ => false

/-- The exhaustion flags at the start of an exchange (10_state.md R30; 42_exchange_retry.md R230). -/
def State.clearExchangeFlags (s : State) : State := { s with fNakExh := false, fErrExh := false }

/-- Whether `acc_sum + d` carries out of bit 31 (43_escrow.md R286). -/
def sumCarries (accSum d : Word) : Bool := 2 ^ 32 ≤ accSum.toNat + d.toNat

/-- `f_sum_ovf` after an addition to `acc_sum`: sticky (10_state.md R30; 43_escrow.md R286). -/
def sumOvfFlag (s : State) (d : Word) : Bool := s.fSumOvf || sumCarries s.accSum d

end Sys2Proof.Machine
end

