-- ==== Sys2Proof/Machine/Frm.lean ====
section
/-! DEFINITION. FRM unit: the frame encoders and decoders (41_framers.md). An encoder writes TXBUF or raises SizeError with
TXBUF unchanged; a decoder reads RXBUF and writes only `last_err`, the result and the flag its rule names (R161). -/

namespace Sys2Proof.Machine

/-- The end of an encode operation: the frame goes to TXBUF, or SizeError with nothing written (60_exceptions.md R407). -/
def encodeTo (s : State) (frame : Option Bytes) : State :=
  match frame with
  | some f => (s.putTx f).succeed .none
  | none => s.raise .sizeError .none

/-- The end of a decode operation: the fields with status OK, or the one error with no fields (41_framers.md R161). -/
def decodeTo (s : State) (d : Except DecErr Result) : State :=
  match d with
  | .ok r => s.succeed r
  | .error e => s.raise (decErrStatus e) .none

/-- FRM.LOAD (41_framers.md R160). -/
def execFrmLoad (bytes : Bytes) (s : State) : Host.Outcome State Fault Refusal :=
  .next (if bytes.length > s.params.rxCap then s.raise .sizeError .none else (s.putRx bytes).succeed .none)

/-- FRM.CCT.ENC (41_framers.md R162). -/
def execFrmCctEnc (dest src cmd : Byte) (payload : Bytes) (s : State) : Host.Outcome State Fault Refusal :=
  .next (encodeTo s (cctEncode s.params dest src cmd payload))

/-- FRM.CCT.DEC (41_framers.md R163, R164). -/
def execFrmCctDec (expectDest : Byte) (s : State) : Host.Outcome State Fault Refusal :=
  withRx s fun rx =>
    decodeTo s ((cctDecode expectDest rx).map fun (src, cmd, payload) => .reply (.cct src cmd payload))

/-- FRM.CCN.ENC (41_framers.md R176). -/
def execFrmCcnEnc (addr cmd : Byte) (payload : Bytes) (s : State) : Host.Outcome State Fault Refusal :=
  .next (encodeTo s (ccnEncode s.params addr cmd payload))

/-- FRM.CCN.DEC (41_framers.md R178 to R183): writes `f_resync`; a wrong address is raised with the candidate's offset. -/
def execFrmCcnDec (expectAddr : Byte) (s : State) : Host.Outcome State Fault Refusal :=
  withRx s fun rx =>
    let d := ccnDecode s.params expectAddr rx
    let s := { s with fResync := resyncFlag d }
    match d with
    | .frame cmd payload offset => s.succeed (.reply (.ccn cmd payload offset))
    | .wrongAddress offset => s.raise .addressError (.wrongAddress offset)
    | .failed e => s.raise (decErrStatus e) .none

/-- FRM.EBD.ENC (41_framers.md R190): reads `ebd_ack` and does not change it. -/
def execFrmEbdEnc (cmd : Byte) (payload : Bytes) (s : State) : Host.Outcome State Fault Refusal :=
  .next (encodeTo s (ebdEncode s.params s.ebdAck cmd payload))

/-- FRM.EBD.DEC (41_framers.md R192, R193, R196): writes `f_ext`. -/
def execFrmEbdDec (expectAck : Bool) (s : State) : Host.Outcome State Fault Refusal :=
  withRx s fun rx =>
    let d := ebdDecode s.params expectAck rx
    decodeTo { s with fExt := extFlag d } (d.map fun (cmd, payload, _) => .reply (.ebd cmd payload))

/-- FRM.WDG.ENC (41_framers.md R204). -/
def execFrmWdgEnc (cmd : Byte) (s : State) : Host.Outcome State Fault Refusal :=
  .next (encodeTo s (wdgEncode s.params cmd))

/-- FRM.WDG.DEC (41_framers.md R205). -/
def execFrmWdgDec (s : State) : Host.Outcome State Fault Refusal :=
  withRx s fun rx => decodeTo s ((wdgDecode rx).map fun cmd => .wdgCommand cmd)

/-- FRM.WDG.CHK (41_framers.md R206). -/
def execFrmWdgChk (s : State) : Host.Outcome State Fault Refusal :=
  withRx s fun rx => decodeTo s (if wdgCheck rx then .ok .none else .error .address)

end Sys2Proof.Machine
end

