-- ==== Sys2Proof/Machine/Atd.lean ====
section
/-! DEFINITION. ATD unit: the AT line encoder, the response decoder and the USSD text decoder (44_at_decoder.md). -/

namespace Sys2Proof.Machine

/-- ATD.ENC (44_at_decoder.md R332). -/
def execAtdEnc (text : Bytes) (term : Bool) (s : State) : Host.Outcome State Fault Refusal :=
  .next (encodeTo s (atEncode s.params text term))

/-- ATD.DEC (44_at_decoder.md R335 to R338). -/
def execAtdDec (s : State) : Host.Outcome State Fault Refusal :=
  withRx s fun rx =>
    decodeTo s <|
      match atDecode rx with
      | some (cls, term, info, body) => .ok (.reply (.at cls term info body))
      | none => .error .length

/-- ATD.USSD (44_at_decoder.md R350 to R361). -/
def execAtdUssd (s : State) : Host.Outcome State Fault Refusal :=
  withRx s fun rx =>
    match ussdRaw rx with
    | none => s.raise .notFound .none
    | some raw => s.succeed (.ussd (ussdChain s.params raw).1 (ussdChain s.params raw).2)

end Sys2Proof.Machine
end

