-- ==== Sys2Proof/Machine/Chk.lean ====
section
/-! DEFINITION. CHK unit: the three checksum generators (40_checksum.md). None of the nine operations can fail. -/

namespace Sys2Proof.Machine

/-- CHK.S8.INIT (40_checksum.md R134). -/
def execChkS8Init (s : State) : Host.Outcome State Fault Refusal :=
  .next ({ s with acc8 := 0x00 }.succeed .none)

/-- CHK.S8.UPD (40_checksum.md R135). -/
def execChkS8Upd (b : Byte) (s : State) : Host.Outcome State Fault Refusal :=
  .next ({ s with acc8 := sum8Step s.acc8 b }.succeed .none)

/-- CHK.S8.FIN (40_checksum.md R136). -/
def execChkS8Fin (s : State) : Host.Outcome State Fault Refusal :=
  .next (s.succeed (.byte (negate8 s.acc8)))

/-- CHK.C16.INIT (40_checksum.md R142). -/
def execChkC16Init (s : State) : Host.Outcome State Fault Refusal :=
  .next ({ s with crc := s.params.crcInit }.succeed .none)

/-- CHK.C16.UPD (40_checksum.md R143). -/
def execChkC16Upd (b : Byte) (s : State) : Host.Outcome State Fault Refusal :=
  .next ({ s with crc := crc16Step s.crc b }.succeed .none)

/-- CHK.C16.FIN (40_checksum.md R144). -/
def execChkC16Fin (s : State) : Host.Outcome State Fault Refusal :=
  .next (s.succeed (.half (s.crc ^^^ s.params.crcXorOut)))

/-- CHK.X8.INIT (40_checksum.md R148). -/
def execChkX8Init (s : State) : Host.Outcome State Fault Refusal :=
  .next ({ s with accx := 0x00 }.succeed .none)

/-- CHK.X8.UPD (40_checksum.md R149). -/
def execChkX8Upd (b : Byte) (s : State) : Host.Outcome State Fault Refusal :=
  .next ({ s with accx := xor8Step s.accx b }.succeed .none)

/-- CHK.X8.FIN (40_checksum.md R150). -/
def execChkX8Fin (s : State) : Host.Outcome State Fault Refusal :=
  .next (s.succeed (.byte s.accx))

end Sys2Proof.Machine
end

