-- ==== Sys2Proof/Machine/Esc.lean ====
section
/-! DEFINITION. ESC unit: limits, the database-error flag and the poll-state operation (43_escrow.md). -/

namespace Sys2Proof.Machine

/-- ESC.CFG (43_escrow.md R273). -/
def execEscCfg (maxSum : Word) (rejectAboveMax : Bool) (s : State) : Host.Outcome State Fault Refusal :=
  .next ({ s with maxSum := maxSum, rejectAboveMax := rejectAboveMax }.succeed .none)

/-- ESC.DBERR (43_escrow.md R275). -/
def execEscDberr (flag : Bool) (s : State) : Host.Outcome State Fault Refusal :=
  .next ({ s with hasDbError := flag }.succeed .none)

/-- The code of the StatusChanged event of a return forced by an upstream error (43_escrow.md R279). -/
def returnedByHost : Byte := 0x80

/-- The duplicate test of an escrow event at time `now` (43_escrow.md R283, R285). -/
def isDuplicate (s : State) (now : Word) : Bool :=
  s.escrowed ∧ (now - s.lastEscTime).toNat < s.params.dupWindowMs

/-- The max-sum test, adding exactly (43_escrow.md R280, R286). -/
def aboveMax (s : State) (d : Word) : Bool :=
  s.rejectAboveMax ∧ s.accSum.toNat + d.toNat > s.maxSum.toNat

/-- The arms of an escrow event, in the order of precedence of 43_escrow.md R278. -/
inductive EscrowArm where
  | unrecognized | dbError | duplicate | overMax | accept
deriving DecidableEq, Repr

/-- Which arm an escrow event takes (43_escrow.md R274, R278). -/
def escrowArm (s : State) (d now : Word) : EscrowArm :=
  if d = 0 then .unrecognized
  else if s.hasDbError then .dbError
  else if isDuplicate s now then .duplicate
  else if aboveMax s d then .overMax
  else .accept

/-- The command of an arm (43_escrow.md R279 to R284). -/
def armCommand (s : State) : EscrowArm → EscCmd
  | .unrecognized | .dbError | .overMax => .ret
  | .duplicate => s.lastCmd
  | .accept => .stack

/-- An escrow event (43_escrow.md R274, case Escrow; R278 to R286). -/
def escrowEvent (s : State) (d now : Word) : State × EscCmd :=
  let arm := escrowArm s d now
  let cmd := armCommand s arm
  let s := { s with lastEscTime := now, escrowed := true, lastCmd := cmd }
  match arm with
  | .unrecognized | .overMax => (s, cmd)
  | .dbError => (s.emit (.statusChanged returnedByHost d), cmd)
  | .duplicate => (s.emit (.nominalDuplicate d), cmd)
  | .accept => ({ s with fSumOvf := sumOvfFlag s d, accSum := s.accSum + d, pendAcc := true }, cmd)

/-- A Stacked state: the NominalAccepted event of a pending acceptance (43_escrow.md R287). -/
def stackedEvent (s : State) (d : Word) : State :=
  if s.pendAcc then
    let s := { s with pendAcc := false }
    if d ≠ 0 then s.emit (.nominalAccepted d) else s
  else s

/-- StatusChanged on a change of PollState and on the first poll after `esc_reset()` (43_escrow.md R289). -/
def statusEvent (s : State) (st : PollState) : State :=
  if s.escPrev = some st then s else s.emit (.statusChanged st.tag st.arg)

/-- The effect of a poll state on the escrow registers, and the command decided (43_escrow.md R274; R290 for the tags that
do nothing). -/
def pollCase (s : State) (st : PollState) (now : Word) : State × EscCmd :=
  match st with
  | .escrow d => escrowEvent s d now
  | .stacked d => (stackedEvent s d, .none)
  | .returned => ({ s with pendAcc := false }, .none)
  | .idling => ({ s with escrowed := false, pendAcc := false }, .none)
  | .accepting | .stacking | .returning | .rejecting _ | .jammed _ | .cassetteFull | .cassetteOpen
  | .powerUp | .disabled | .error _ | .initialise => (s, .none)

/-- ESC.POLL in state Polling, without the latching of its status, as SES.CYCLE uses it too (43_escrow.md R274). -/
def poll (st : PollState) (now : Word) (s : State) : State × EscCmd :=
  let (s, cmd) := pollCase (statusEvent s st) st now
  ({ s with escPrev := some st }, cmd)

/-- `repoll`: a command was decided (43_escrow.md R274). -/
def repollOf (cmd : EscCmd) : Bool := cmd ≠ .none

/-- ESC.POLL (43_escrow.md R274; refused outside Polling, 42_exchange_retry.md R226). -/
def execEscPoll (st : PollState) (now : Word) (s : State) : Host.Outcome State Fault Refusal :=
  .next <|
    if s.sesState ≠ .polling then s.refuse
    else
      let (s, cmd) := poll st now s
      s.succeed (.decision cmd (repollOf cmd))

end Sys2Proof.Machine
end

