-- ==== Sys2Proof/Machine/Exchange.lean ====
section
/-! DEFINITION. The exchange: encode, write, read with timeout, decode, with the NAK/BUSY and checksum-class retries
(42_exchange_retry.md R230 to R239). It is written as the micro-steps of rule R231, each with at most one port call and each
leaving `rty_state` at the next position; the loop of rule R230 is their composition. SES.EXCHANGE, SES.PROBE and SES.CYCLE
share it. -/

namespace Sys2Proof.Machine

/-- How one transmission leaves the exchange: to be retransmitted after a reply of the given kind, or ended. -/
inductive Turn where
  | again (s : State) (last : LastReply)
  | ended (s : State) (e : ExchEnd)
deriving DecidableEq, Repr

/-- `finish()`: the exchange is over, and the EBDS alternating bit is complemented once (42_exchange_retry.md R230, R238). -/
def State.finishExchange (s : State) : State :=
  { s with
    rtyState := .idle
    ebdAck := if s.params.proto = .ebds then !s.ebdAck else s.ebdAck }

/-- The start of an exchange whose request is encoded: TXBUF holds the frame, counters and exhaustion flags are clear
(42_exchange_retry.md R230, R231 row Idle). -/
def State.beginExchange (s : State) (frame : Bytes) : State :=
  { (s.putTx frame).clearExchangeFlags with nakCnt := 0, errCnt := 0, rtyState := .write }

/-- Micro-step Write: trace, PortWrite; a failed write tears the session down and ends the exchange (42_exchange_retry.md
R230, R231, R239). -/
def writePhase (frame : Bytes) (s : State) : Except (State × ExchEnd) State :=
  let (ok, s) := (s.traced .tx frame).writePort frame
  if ok then .ok { s with rtyState := .read }
  else .error (s.teardown.finishExchange, .failed .portError)

/-- Micro-step Read: PortRead replaces RXBUF; an empty read is a timeout and ends the exchange (42_exchange_retry.md R230,
R231, R232, R234). -/
def readPhase (s : State) : Except (State × ExchEnd) (State × Bytes) :=
  let (rx, s) := s.readPort s.params.rxCap s.params.readTimeoutMs
  let s := (s.putRx rx).traced .rx rx
  if rx = [] then .error (s.finishExchange, .failed .timeout)
  else .ok ({ s with rtyState := .decode }, rx)

/-- The decode of a reply by the decoder of the family, with the flag that decoder writes (42_exchange_retry.md R230 step
4). -/
def decodeReply (ack : Bool) (rx : Bytes) (s : State) : State × Except DecErr Reply :=
  match s.params.proto with
  | .cctalk =>
    (s, (cctDecode s.params.cctHostAddr rx).map fun (src, cmd, payload) => .cct src cmd payload)
  | .ccnet =>
    let d := ccnDecode s.params s.params.ccnAddr rx
    ({ s with fResync := resyncFlag d },
      match d with
      | .frame cmd payload offset => .ok (.ccn cmd payload offset)
      | .wrongAddress _ => .error .address
      | .failed e => .error e)
  | .ebds =>
    let d := ebdDecode s.params ack rx
    ({ s with fExt := extFlag d }, d.map fun (cmd, payload, _) => .ebd cmd payload)
  | .wdg => (s, if wdgCheck rx then .ok .wdg else .error .address)
  | .at =>
    (s, match atDecode rx with
      | some (cls, term, info, body) => .ok (.at cls term info body)
      | none => .error .length)

/-- Classification of a decoded reply: a checksum-class error or NAK/BUSY is counted and ends the exchange at its bound;
any other frame is the answer (42_exchange_retry.md R230 step 5, R231, R233, R235, R236, R237). The count is compared as a
number, before it is narrowed to its register (log 13). -/
def classifyReply (d : Except DecErr Reply) (s : State) : Turn :=
  match d with
  | .error e =>
    let count := s.errCnt.toNat + 1
    let s := { s with errCnt := s.errCnt + 1 }
    if count ≥ maxErr s.params then
      .ended { s with fErrExh := true }.finishExchange (.failed (.exhausted (.error e)))
    else .again { s with rtyState := .write } (.error e)
  | .ok r =>
    if nakBusy s.params r then
      let count := s.nakCnt.toNat + 1
      let s := { s with nakCnt := s.nakCnt + 1 }
      if count ≥ maxNak s.params then
        .ended { s with fNakExh := true }.finishExchange (.failed (.exhausted .nakBusy))
      else .again { s with rtyState := .write } .nakBusy
    else .ended s.finishExchange (.answer r)

/-- Micro-step Decode (42_exchange_retry.md R231). -/
def decodePhase (ack : Bool) (rx : Bytes) (s : State) : Turn :=
  let (s, d) := decodeReply ack rx s
  classifyReply d s

/-- One transmission: the three micro-steps in a row (42_exchange_retry.md R230, the body of the loop). -/
def attempt (frame : Bytes) (ack : Bool) (s : State) : Turn :=
  match writePhase frame s with
  | .error (s, e) => .ended s e
  | .ok s =>
    match readPhase s with
    | .error (s, e) => .ended s e
    | .ok (s, rx) => decodePhase ack rx s

/-- The loop of 42_exchange_retry.md R230, with the number of retransmissions still left: after the last one a reply that
asks for another ends the exchange (log 18). -/
def exchangeLoop (frame : Bytes) (ack : Bool) : (left : Nat) → State → State × ExchEnd
  | 0, s =>
    match attempt frame ack s with
    | .ended s e => (s, e)
    | .again s last => (s.finishExchange, .failed (.exhausted last))
  | left + 1, s =>
    match attempt frame ack s with
    | .ended s e => (s, e)
    | .again s _ => exchangeLoop frame ack left s

/-- The retransmissions an exchange can make: `(MAX_NAK - 1) + (MAX_ERR - 1)` (42_exchange_retry.md R237). -/
def retransmissions (p : Params) : Nat := (maxNak p - 1) + (maxErr p - 1)

/-- An exchange is legal while polling or probing with the port open (42_exchange_retry.md R230). -/
def State.mayExchange (s : State) : Bool :=
  (s.sesState = .polling ∨ s.sesState = .probing) ∧ s.portOpen = true

/-- SES.EXCHANGE without the latching of its status, as SES.PROBE and SES.CYCLE use it too (42_exchange_retry.md R230;
60_exceptions.md R383). The request is encoded once; every transmission sends the same bytes and is checked against the same
ACK bit (R238). -/
def exchange (cmd payload : Bytes) (s : State) : State × ExchEnd :=
  if s.mayExchange then
    match encodeExchange s.params s.ebdAck cmd payload with
    | none => (s, .failed .sizeError)
    | some frame =>
      exchangeLoop frame s.ebdAck (retransmissions s.params) (s.beginExchange frame)
  else (s, .failed .illegal)

/-- The status an exchange raises (42_exchange_retry.md R230; 60_exceptions.md R380). -/
def ExchErr.status : ExchErr → Status
  | .illegal => .illegal
  | .sizeError => .sizeError
  | .portError => .portError
  | .timeout => .timeout
  | .exhausted _ => .exhausted

/-- What an exchange returns to the host: the answer, or `last` with Exhausted (60_exceptions.md R380). -/
def ExchErr.info : ExchErr → Result
  | .exhausted last => .exhausted last
  | .illegal | .sizeError | .portError | .timeout => .none

end Sys2Proof.Machine
end

