-- ==== Sys2Proof/Machine/Ses.lean ====
section
/-! DEFINITION. SES unit: the session state machine, the exchange, the probe and the poll cycle (42_exchange_retry.md;
43_escrow.md R300 to R303). -/

namespace Sys2Proof.Machine

/-- A failed probe: the port is closed and the session with it (42_exchange_retry.md R240, R242). -/
def State.probeNotFound (s : State) : State :=
  { s.closePort with sesState := .closed, devAvail := false }.raise .notFound .none

/-- The follow-ups of a probe after the signature was seen: a PortError ends the probe, any other failure keeps its place
in the replies (42_exchange_retry.md R240, R247; 60_exceptions.md R402). -/
def followups : List (Bytes × Bytes) → (replies : List ExchEnd) → State → State × Option (List ExchEnd)
  | [], replies, s => (s, some replies)
  | (cmd, payload) :: rest, replies, s =>
    match exchange cmd payload { s with sesState := .probing } with
    | (s, .failed .portError) => (s, none)
    | (s, e) => followups rest (replies ++ [e]) s

/-- The probe after its signature passed: identification, follow-ups, port closed (42_exchange_retry.md R240). -/
def probeIdentified (ident : Reply) (s : State) : State :=
  match followups s.params.probeFollowups [] { s with sesState := .identified, devAvail := true } with
  | (s, none) => s.raise .portError .none
  | (s, some replies) => { s.closePort with sesState := .identified }.succeed (.ident ident replies)

/-- The probe with the port open (42_exchange_retry.md R240, R241). -/
def probeOpened (s : State) : State :=
  match exchange (identCommand s.params) [] { s with sesState := .probing } with
  | (s, .failed .portError) => s.raise .portError .none
  | (s, .failed _) => s.probeNotFound
  | (s, .answer d) => if signature s.params d then probeIdentified d s else s.probeNotFound

/-- SES.PROBE (42_exchange_retry.md R240 to R247). -/
def execSesProbe (s : State) : Host.Outcome State Fault Refusal :=
  .next <|
    if s.sesState ≠ .closed then s.refuse
    else
      match s.openPort with
      | (false, s) => { s with devAvail := false }.raise .portError .none
      | (true, s) => probeOpened s

/-- SES.START (42_exchange_retry.md R222). -/
def execSesStart (s : State) : Host.Outcome State Fault Refusal :=
  .next <|
    if s.sesState ≠ .identified then s.refuse
    else
      match s.openPort with
      | (false, s) => { s with sesState := .closed, devAvail := false }.raise .portError .none
      | (true, s) => { s with sesState := .polling, stopPoll := false }.escReset.succeed .none

/-- SES.STOP (42_exchange_retry.md R223). -/
def execSesStop (s : State) : Host.Outcome State Fault Refusal :=
  .next <|
    if s.sesState ≠ .polling then s.refuse
    else { s.closePort with sesState := .closed }.escReset.succeed .none

/-- SES.CLOSE (42_exchange_retry.md R224). -/
def execSesClose (s : State) : Host.Outcome State Fault Refusal :=
  .next <|
    if s.sesState ≠ .identified then s.refuse
    else { s with sesState := .closed, devAvail := false }.succeed .none

/-- SES.EXCHANGE (42_exchange_retry.md R230 to R239). -/
def execSesExchange (cmd payload : Bytes) (s : State) : Host.Outcome State Fault Refusal :=
  .next <|
    match exchange cmd payload s with
    | (s, .answer r) => s.succeed (.reply r)
    | (s, .failed e) => s.raise e.status e.info

/-- SES.STOPREQ (42_exchange_retry.md R225). -/
def execSesStopreq (s : State) : Host.Outcome State Fault Refusal :=
  .next ({ s with stopPoll := true }.succeed .none)

/-- What a cycle returns when one of its exchanges failed: the status, with `(done, repoll)` (43_escrow.md R300, R303). A
command that fits no frame, and a closed port, end it with ILLEGAL: 60_exceptions.md R382 gives SES.CYCLE no SizeError (log
16, log 17). -/
def State.cycleFailed (s : State) (e : ExchErr) (repoll : Bool) : State :=
  match e with
  | .portError => s.raise .portError .none
  | .exhausted last => s.raise .exhausted (.cycleExhausted last false repoll)
  | .timeout => s.raise .timeout (.cycle false repoll)
  | .sizeError | .illegal => s.raise .illegal (.cycle false repoll)

/-- The command code of a decision (43_escrow.md R300). -/
def commandOf (p : Params) : EscCmd → Option Bytes
  | .none => none
  | .stack => some p.cmdStack
  | .ret => some p.cmdReturn

/-- The end of a cycle: the command that was decided is sent; its reply is not interpreted (43_escrow.md R300). -/
def cycleCommand (cmd : EscCmd) (s : State) : State :=
  match commandOf s.params cmd with
  | none => s.succeed (.cycle false (repollOf cmd))
  | some c =>
    match exchange c [] s with
    | (s, .failed e) => s.cycleFailed e true
    | (s, .answer _) => s.succeed (.cycle false (repollOf cmd))

/-- The cycle after the stop flag was found clear (43_escrow.md R300). -/
def cyclePoll (now : Word) (s : State) : State :=
  match exchange s.params.cmdPoll [] s with
  | (s, .failed e) => s.cycleFailed e false
  | (s, .answer r) =>
    let (s, cmd) := poll (interpret s.params r) now s
    cycleCommand cmd s

/-- SES.CYCLE (43_escrow.md R300 to R303). -/
def execSesCycle (now : Word) (s : State) : Host.Outcome State Fault Refusal :=
  .next <|
    if s.sesState ≠ .polling then s.refuse
    else if s.stopPoll then s.succeed (.cycle true false)
    else cyclePoll now s

end Sys2Proof.Machine
end

