-- ==== Sys2Proof/Machine/Sys.lean ====
section
/-! DEFINITION. SYS unit: reset (70_reset_and_hazards.md). -/

namespace Sys2Proof.Machine

/-- SYS.RESET (70_reset_and_hazards.md R420, R421): the port is closed if it was open, every register takes its reset
value, EVQ is emptied. -/
def execSysReset (s : State) : Host.Outcome State Fault Refusal :=
  .next ((if s.portOpen then s.closePort else s).resetRegisters.succeed .none)

end Sys2Proof.Machine
end

