-- ==== Sys2Proof/Machine/Wire.lean ====
section
/-! DEFINITION. Frames on the line: a frame of one of the five wire formats arrives from the device, and its bytes join the
serial RX stream, first byte first (30_encoding.md R90 to R103; 20_memory.md R63, R67; log 10). No register of the block
changes: the block looks at the line only inside PortRead (60_exceptions.md R393). -/

namespace Sys2Proof.Machine

/-- WIRE.CCTALK (30_encoding.md R90 to R92). -/
def execWireCctalk (dest src cmd : Byte) (payload : Bytes) (s : State) : Host.Outcome State Fault Refusal :=
  .next (s.deliver (cctFrame dest src cmd payload))

/-- WIRE.CCNET (30_encoding.md R94 to R96). -/
def execWireCcnet (addr cmd : Byte) (payload : Bytes) (s : State) : Host.Outcome State Fault Refusal :=
  .next (s.deliver (ccnFrame s.params addr cmd payload))

/-- WIRE.EBDS (30_encoding.md R97 to R100). -/
def execWireEbds (ctl : Byte) (data : Bytes) (s : State) : Host.Outcome State Fault Refusal :=
  .next (s.deliver (ebdFrame s.params ctl data))

/-- WIRE.WATCHDOG (30_encoding.md R102). -/
def execWireWatchdog (cmd : Byte) (s : State) : Host.Outcome State Fault Refusal :=
  .next (s.deliver (wdgFrame cmd))

/-- WIRE.AT (30_encoding.md R103). -/
def execWireAt (text : Bytes) (term : Bool) (s : State) : Host.Outcome State Fault Refusal :=
  .next (s.deliver (atFrame text term))

end Sys2Proof.Machine
end

