-- ==== Sys2Proof/Machine/Dispatch.lean ====
section
/-! DEFINITION. Dispatch: one arm per instruction, each a direct call of its meaning. -/

namespace Sys2Proof.Machine

def exec (i : Instr) (s : State) : Host.Outcome State Fault Refusal :=
  match i with
  | .sysReset => Sys2Proof.Machine.execSysReset s
  | .chkS8Init => Sys2Proof.Machine.execChkS8Init s
  | .chkS8Upd b => Sys2Proof.Machine.execChkS8Upd b s
  | .chkS8Fin => Sys2Proof.Machine.execChkS8Fin s
  | .chkC16Init => Sys2Proof.Machine.execChkC16Init s
  | .chkC16Upd b => Sys2Proof.Machine.execChkC16Upd b s
  | .chkC16Fin => Sys2Proof.Machine.execChkC16Fin s
  | .chkX8Init => Sys2Proof.Machine.execChkX8Init s
  | .chkX8Upd b => Sys2Proof.Machine.execChkX8Upd b s
  | .chkX8Fin => Sys2Proof.Machine.execChkX8Fin s
  | .frmLoad bytes => Sys2Proof.Machine.execFrmLoad bytes s
  | .frmCctEnc dest src cmd payload => Sys2Proof.Machine.execFrmCctEnc dest src cmd payload s
  | .frmCctDec expectDest => Sys2Proof.Machine.execFrmCctDec expectDest s
  | .frmCcnEnc addr cmd payload => Sys2Proof.Machine.execFrmCcnEnc addr cmd payload s
  | .frmCcnDec expectAddr => Sys2Proof.Machine.execFrmCcnDec expectAddr s
  | .frmEbdEnc cmd payload => Sys2Proof.Machine.execFrmEbdEnc cmd payload s
  | .frmEbdDec expectAck => Sys2Proof.Machine.execFrmEbdDec expectAck s
  | .frmWdgEnc cmd => Sys2Proof.Machine.execFrmWdgEnc cmd s
  | .frmWdgDec => Sys2Proof.Machine.execFrmWdgDec s
  | .frmWdgChk => Sys2Proof.Machine.execFrmWdgChk s
  | .sesProbe => Sys2Proof.Machine.execSesProbe s
  | .sesStart => Sys2Proof.Machine.execSesStart s
  | .sesStop => Sys2Proof.Machine.execSesStop s
  | .sesClose => Sys2Proof.Machine.execSesClose s
  | .sesExchange cmd payload => Sys2Proof.Machine.execSesExchange cmd payload s
  | .sesStopreq => Sys2Proof.Machine.execSesStopreq s
  | .sesCycle now => Sys2Proof.Machine.execSesCycle now s
  | .escCfg maxSum rejectAboveMax => Sys2Proof.Machine.execEscCfg maxSum rejectAboveMax s
  | .escDberr flag => Sys2Proof.Machine.execEscDberr flag s
  | .escPoll state now => Sys2Proof.Machine.execEscPoll state now s
  | .atdEnc text term => Sys2Proof.Machine.execAtdEnc text term s
  | .atdDec => Sys2Proof.Machine.execAtdDec s
  | .atdUssd => Sys2Proof.Machine.execAtdUssd s
  | .wireCctalk dest src cmd payload => Sys2Proof.Machine.execWireCctalk dest src cmd payload s
  | .wireCcnet addr cmd payload => Sys2Proof.Machine.execWireCcnet addr cmd payload s
  | .wireEbds ctl data => Sys2Proof.Machine.execWireEbds ctl data s
  | .wireWatchdog cmd => Sys2Proof.Machine.execWireWatchdog cmd s
  | .wireAt text term => Sys2Proof.Machine.execWireAt text term s

end Sys2Proof.Machine
end

