-- ==== Sys2Proof/Machine/Fetch.lean ====
section
/-! DEFINITION. What the block does with the next input: a request is decoded, a burst of bytes from the device is read as a
frame of the instance's family, an event removal is done. There is no instruction fetch from memory and no program counter
(20_memory.md R77; 10_state.md R21; log 3). -/

namespace Sys2Proof.Machine

/-- The next input, read. -/
inductive Fetched where
  /-- An instruction is to be executed in the state. -/
  | run (i : Instr) (s : State)
  /-- The step is complete: nothing was pending, an event was taken, bytes arrived that are no frame, or an undefined
  op-select code was refused with ILLEGAL. -/
  | settled (s : State)
  /-- The request is no packing of an operation's operands. -/
  | malformed (e : DecodeError)

/-- A request of the host: the operation it selects, or ILLEGAL for an undefined code whatever else it carries
(30_encoding.md R110, R120; 60_exceptions.md R382, R406). -/
def fetchRequest (bytes : Bytes) (s : State) : Fetched :=
  match Decode.request bytes with
  | .ok (i, _) => .run i s
  | .error (.undefinedOp _) => .settled s.refuse
  | .error e => .malformed e

/-- Bytes from the device: a frame of the family, or bytes that are none; either way they join the RX stream (20_memory.md
R67; log 10). -/
def fetchLine (bytes : Bytes) (s : State) : Fetched :=
  match Decode.wire s.params bytes with
  | some i => .run i s
  | none => .settled (s.deliver bytes)

/-- The host takes the event at the head of EVQ (10_state.md R50; log 19). -/
def State.takeEvent (s : State) : State := { s with evq := s.evq.tail }

/-- The next input of the block; without one it is idle with its whole state retained (00_scope.md R18). -/
def fetch (s : State) : Fetched :=
  match s.pending with
  | [] => .settled s
  | .request bytes :: rest => fetchRequest bytes { s with pending := rest }
  | .line bytes :: rest => fetchLine bytes { s with pending := rest }
  | .takeEvent :: rest => .settled { s with pending := rest }.takeEvent

/-- A request placed before every other input. -/
def State.withRequest (s : State) (bytes : Bytes) : State := { s with pending := .request bytes :: s.pending }

end Sys2Proof.Machine
end

