-- ==== Sys2Proof/Machine/Step.lean ====
section
/-! DEFINITION. One step: the next input is taken and done (00_scope.md R7). -/

namespace Sys2Proof.Machine

/-- One step of the instance. -/
def step (s : State) : Host.Outcome State Fault Refusal :=
  match fetch s with
  | .run i s' => exec i s'
  | .settled s' => .next s'
  | .malformed e => .refused (.malformedRequest e)

/-- The state with a table word as its next request: nothing else is needed for the fetch (log 3). -/
def State.withFetchWord (s : State) (nbits w : Nat) : State := s.withRequest (tableBytes nbits w)

end Sys2Proof.Machine
end

