-- ==== Sys2Proof/Safety.lean ====
section
/-! DEFINITION. What a safe run of the block is, in the terms the statements use: the invariant that every step keeps, the
money-safety condition, and runs of several operations. -/

namespace Sys2Proof.Machine

/-! ### The invariant -/

/-- A buffer and its length register agree: the buffer is in canonical form, its listed indices are exactly those below the
length, and the length is within the capacity (10_state.md R25, R26; 93_implementation_defined.md U1). -/
abbrev BufferOk (m : Memory) (len cap : Nat) : Prop :=
  m.wf = true ∧ m.map Prod.fst = List.range len ∧ len ≤ cap

/-- The escrow registers as `esc_reset()` leaves them (43_escrow.md R271). -/
abbrev EscCleared (s : State) : Prop :=
  s.accSum = 0 ∧ s.fSumOvf = false ∧ s.escPrev = none ∧ s.escrowed = false ∧ s.lastCmd = .none ∧ s.pendAcc = false

/-- An event the block can emit: the code of a StatusChanged is a tag code or 0x80 (60_exceptions.md R390), and a Nominal
event never carries denomination 0 (43_escrow.md R282, R287). -/
def Event.legal : Event → Bool
  | .nominalAccepted v => v ≠ 0
  | .nominalDuplicate v => v ≠ 0
  | .statusChanged code _ => code.toNat ≤ 14 ∨ code = 0x80

/-- The retry bounds of the parameters are at least 1 (00_scope.md R10 for MAX_NAK and, by its default, MAX_ERR) and fit the
8-bit counters (10_state.md R34; log 13). -/
abbrev ParamsBoundsOk (p : Params) : Prop :=
  (1 ≤ p.otherMaxNak ∧ p.otherMaxNak ≤ 255) ∧ 1 ≤ p.otherMaxErr ∧ p.otherMaxErr ≤ 255

/-- What holds of every instance between two operations. -/
structure Inv (s : State) : Prop where
  bounds : ParamsBoundsOk s.params
  tx : BufferOk s.txbuf s.txLen s.params.txCap
  rx : BufferOk s.rxbuf s.rxLen s.params.rxCap
  /-- `Probing` and the positions inside an exchange do not outlive an operation (10_state.md R32, R33). -/
  notProbing : s.sesState ≠ .probing
  rtyIdle : s.rtyState = .idle
  /-- The port is open exactly while polling (42_exchange_retry.md R221). -/
  port : s.portOpen = true ↔ s.sesState = .polling
  /-- A closed port holds no unread byte (20_memory.md R68, R69). -/
  line : s.portOpen = false → s.serialRx = []
  /-- An identity stands only while the device is available (10_state.md R36). -/
  avail : s.sesState ≠ .closed → s.devAvail = true
  /-- The counters never pass their bounds (10_state.md R34). -/
  nak : s.nakCnt.toNat ≤ maxNak s.params
  err : s.errCnt.toNat ≤ maxErr s.params
  /-- At most one bound ends an exchange (42_exchange_retry.md R237). -/
  exhausted : ¬ (s.fNakExh = true ∧ s.fErrExh = true)
  /-- Outside Polling the escrow registers are cleared (42_exchange_retry.md R222, R223, R239). -/
  escIdle : s.sesState ≠ .polling → EscCleared s
  /-- Before the first poll they are cleared too (10_state.md R42). -/
  escFresh : s.escPrev = none → EscCleared s
  /-- An escrow event left a command to repeat (43_escrow.md R284). -/
  escCommand : s.escrowed = true → s.lastCmd ≠ .none
  /-- A pending acceptance belongs to an escrow event that no Idling has ended (43_escrow.md R288). -/
  escPending : s.pendAcc = true → s.escrowed = true
  /-- `last_err` is a status code (60_exceptions.md R380). -/
  code : s.lastErr.toNat ≤ 0x0A
  events : ∀ e ∈ s.evq, e.legal = true

/-- Never accept past the configured maximum (43_escrow.md R292 (a)). -/
abbrev MoneySafe (s : State) : Prop := s.rejectAboveMax = true → s.accSum.toNat ≤ s.maxSum.toNat

/-! ### Runs -/

/-- Several operations in a row, stopping at the first that does not answer a next state. -/
def runInstrs : List Instr → State → Host.Outcome State Fault Refusal
  | [], s => .next s
  | i :: rest, s =>
    match exec i s with
    | .next t => runInstrs rest t
    | .fault f => .fault f
    | .refused r => .refused r

/-- Several ESC.POLL operations while polling, and the denominations of the escrow events that were stacked as new ones
(43_escrow.md R281), oldest first. -/
def pollRun : List (PollState × Word) → State → State × List Word
  | [], s => (s, [])
  | (st, now) :: rest, s =>
    let taken :=
      match st with
      | .escrow d => if escrowArm s d now = .accept then [d] else []
      | _ => []
    let r := pollRun rest (poll st now s).1
    (r.1, taken ++ r.2)

/-- The values of the NominalAccepted events of a queue. -/
def acceptedValues (evq : List Event) : List Word :=
  evq.filterMap fun e =>
    match e with
    | .nominalAccepted v => some v
    | .nominalDuplicate _ | .statusChanged _ _ => none

/-- The statuses an operation can end with (60_exceptions.md R382); a frame on the line is no operation and ends with
none. -/
def allowedStatus : Instr → List Status
  | .sysReset | .chkS8Init | .chkS8Upd _ | .chkS8Fin | .chkC16Init | .chkC16Upd _ | .chkC16Fin
  | .chkX8Init | .chkX8Upd _ | .chkX8Fin | .frmWdgEnc _ | .sesStopreq | .escCfg .. | .escDberr _ => [.ok]
  | .frmLoad _ | .frmCctEnc .. | .frmCcnEnc .. | .frmEbdEnc .. | .atdEnc .. => [.ok, .sizeError]
  | .frmCctDec _ | .frmCcnDec _ => [.ok, .checksumError, .lengthError, .addressError]
  | .frmEbdDec _ => [.ok, .checksumError, .lengthError, .ackBitError]
  | .frmWdgDec | .atdDec => [.ok, .lengthError]
  | .frmWdgChk => [.ok, .addressError]
  | .sesProbe => [.ok, .portError, .notFound, .illegal]
  | .sesStart => [.ok, .portError, .illegal]
  | .sesStop | .sesClose | .escPoll .. => [.ok, .illegal]
  | .sesExchange .. => [.ok, .exhausted, .timeout, .portError, .sizeError, .illegal]
  | .sesCycle _ => [.ok, .exhausted, .timeout, .portError, .illegal]
  | .atdUssd => [.ok, .notFound]
  | .wireCctalk .. | .wireCcnet .. | .wireEbds .. | .wireWatchdog _ | .wireAt .. => []

/-- The decode step of an exchange is the decode operation `i` on the same bytes: the same flags, and the same fields or the
same error (42_exchange_retry.md R230, step 4). -/
abbrev DecodesAs (i : Instr) (ack : Bool) (rx : Bytes) (s : State) : Prop :=
  ∃ t, exec i s = .next t ∧
    (decodeReply ack rx s).1 = { s with fResync := t.fResync, fExt := t.fExt } ∧
    (∀ r, (decodeReply ack rx s).2 = .ok r → t.lastErr = Status.ok.code ∧ t.result = .reply r) ∧
    ∀ e, (decodeReply ack rx s).2 = .error e → t.lastErr = (decErrStatus e).code

/-! ### The exchanges of a probe -/

/-- How an exchange ended, as its status code and what it returned. -/
def ExchEnd.shown : ExchEnd → Byte × Result
  | .answer r => (Status.ok.code, .reply r)
  | .failed e => (e.status.code, e.info)

/-- The follow-ups of a probe as SES.EXCHANGE operations in Probing, one after the other, with the status code and result of
each; none where a PortError ended them (42_exchange_retry.md R240, R247). -/
def followupRun : List (Bytes × Bytes) → State → State × Option (List (Byte × Result))
  | [], s => (s, some [])
  | (cmd, payload) :: rest, s =>
    match exec (.sesExchange cmd payload) { s with sesState := .probing } with
    | .next t =>
      if t.lastErr = Status.portError.code then (t, none)
      else
        let r := followupRun rest t
        (r.1, r.2.map ((t.lastErr, t.result) :: ·))
    | .fault _ | .refused _ => (s, none)

/-- The state in which a probe sends its identification: the port was opened, the state is Probing (42_exchange_retry.md
R240). -/
abbrev State.probing (s : State) : State :=
  { s with
    openScript := s.openScript.tail, portCalls := s.portCalls + 1, portOpen := true, serialRx := [], sesState := .probing }

/-! ### Positions in a receive buffer, as the rules name them -/

/-- A CRLF pair starts at an index (44_at_decoder.md R333). -/
abbrev CrlfAt (bs : Bytes) (i : Nat) : Prop := bs[i]? = some 0x0D ∧ bs[i + 1]? = some 0x0A

/-- A whole CCNET candidate of `len` bytes starts at an index: SYNC, and the checks (a) and (b) of 41_framers.md R178. -/
abbrev CcnWhole (rx : Bytes) (i len : Nat) : Prop :=
  rx[i]? = some 0x02 ∧ (rx[i + 2]?).map BitVec.toNat = some len ∧ 6 ≤ len ∧ i + len ≤ rx.length

/-- A checksum-valid CCNET candidate of `len` bytes starts at an index (41_framers.md R178, R181). -/
abbrev CcnValid (p : Params) (rx : Bytes) (i len : Nat) : Prop :=
  CcnWhole rx i len ∧
    instanceCrc p (slice rx i (i + len - 2)) = ofLoHi (rx.getD (i + len - 2) 0) (rx.getD (i + len - 1) 0)

/-- The opening of a USSD envelope, `+CUSD: 0,"`, stands at an index (44_at_decoder.md R350, R351). -/
abbrev EnvelopeAt (rx : Bytes) (i : Nat) : Prop :=
  slice rx i (i + 10) = [0x2B, 0x43, 0x55, 0x53, 0x44, 0x3A, 0x20, 0x30, 0x2C, 0x22]

/-- The sum of a byte sequence as a number. -/
abbrev byteSum (bs : Bytes) : Nat := (bs.map BitVec.toNat).sum

end Sys2Proof.Machine
end

