-- ==== Sys2Proof/Certificates/Slice0/Obligations.lean ====
section
/-! DEFINITION. The statements about the model, each a proposition of its own. Where a statement gives an operation's next
state, every field it does not name is as before; `result` is where the host reads an operation's results (log 8). -/

open Sys2Proof Sys2Proof.Machine

/-! ## The step, requests and frames -/

/-- A request whose bytes decode to an instruction: the step takes it off the input list and is `exec` of it (00_scope.md
R7). The input list is the model's (log 3), and so are the packing of the bytes (log 1) and that bytes left over after the
operands are ignored (log 28). -/
def Obligations.StepRunsDecodedRequest : Prop :=
  ∀ (s : State) (bs tail : Bytes) (rest : List Input) (i : Instr),
    s.pending = .request bs :: rest → Decode.request bs = .ok (i, tail) →
      step s = exec i { s with pending := rest }

/-- The other inputs: a frame of the instance's family is its instruction, other bytes from the device join the RX stream
while the port is open, an event removal drops the head of EVQ, and without an input nothing changes (20_memory.md R67;
10_state.md R50; 00_scope.md R18; logs 3, 10, 19). -/
def Obligations.StepTakesOtherInputs : Prop :=
  (∀ (s : State) (bs : Bytes) (rest : List Input) (i : Instr),
    s.pending = .line bs :: rest → Decode.wire s.params bs = some i → step s = exec i { s with pending := rest }) ∧
  (∀ (s : State) (bs : Bytes) (rest : List Input),
    s.pending = .line bs :: rest → Decode.wire s.params bs = none →
      step s = .next { s with
        pending := rest, serialRx := if s.portOpen then s.serialRx ++ bs else s.serialRx }) ∧
  (∀ (s : State) (rest : List Input),
    s.pending = .takeEvent :: rest → step s = .next { s with pending := rest, evq := s.evq.tail }) ∧
  ∀ s : State, s.pending = [] → step s = .next s

/-- An op-select code that 30_encoding.md R110 does not list is refused with ILLEGAL, whatever follows it, and nothing else
changes (30_encoding.md R120). -/
def Obligations.UndefinedOpSelectIsIllegal : Prop :=
  ∀ (s : State) (op : Byte) (operands : Bytes) (rest : List Input),
    s.pending = .request (op :: operands) :: rest →
    op.toNat ∉ [0x00, 0x10, 0x11, 0x12, 0x14, 0x15, 0x16, 0x18, 0x19, 0x1A, 0x20, 0x22, 0x23, 0x24, 0x25, 0x26, 0x27,
      0x28, 0x29, 0x2A, 0x30, 0x31, 0x32, 0x33, 0x34, 0x35, 0x36, 0x40, 0x41, 0x42, 0x50, 0x51, 0x52] →
    ∃ r, step s = .next { s with pending := rest, lastErr := 0x0A, result := r }

/-- Words written out from 30_encoding.md R110 and from the frame layouts decode to their instructions. The packing of
operands is the model's (log 1). -/
def Obligations.SampleWordsDecode : Prop :=
  Decode.request [0x00] = .ok (.sysReset, []) ∧
  Decode.request [0x15, 0x02] = .ok (.chkC16Upd 0x02, []) ∧
  Decode.request [0x22, 0x02, 0x01, 0xFE, 0x00, 0x00] = .ok (.frmCctEnc 0x02 0x01 0xFE [], []) ∧
  Decode.request [0x27, 0x01] = .ok (.frmEbdDec true, []) ∧
  Decode.request [0x36, 0xE8, 0x03, 0x00, 0x00] = .ok (.sesCycle 1000, []) ∧
  Decode.request [0x42, 0x02, 0x32, 0x00, 0x00, 0x00, 0xE8, 0x03, 0x00, 0x00] = .ok (.escPoll (.escrow 50) 1000, []) ∧
  Decode.request [0x50, 0x02, 0x00, 0x41, 0x54, 0x00] = .ok (.atdEnc [0x41, 0x54] false, []) ∧
  Decode.wholeCctalk [0x02, 0x00, 0x01, 0xFE, 0xFF] = some (.wireCctalk 0x02 0x01 0xFE []) ∧
  Decode.wholeWatchdog [0x4F, 0x53, 0x50, 0x01] = some (.wireWatchdog 0x01)

/-- Every operation is read back from its own encoding, with every operand at every value the encoding admits, and the bytes
after it are left; ATD.ENC is read with `term` 0 where its last operand is left out. The packing is the model's (log 1). -/
def Obligations.RequestDecodesItsEncoding : Prop :=
  (∀ (p : Params) (i : Instr) (tail : Bytes), WellFormed i → isWire i = false →
    Decode.request (encode p i ++ tail) = .ok (i, tail)) ∧
  ∀ (p : Params) (text : Bytes), WellFormed (.atdEnc text false) →
    Decode.request (encode p (.atdEnc text false)).dropLast = .ok (.atdEnc text false, [])

/-- A request is accepted only if it begins with the encoding of the instruction it decodes to, or is that encoding without
the `term` 0 of ATD.ENC, and that instruction is a well-formed operation: no bit of the encoding is dropped. Bytes left over
after it are ignored, which is the model's choice (log 28), and so is the packing (log 1). -/
def Obligations.AcceptedRequestIsItsEncoding : Prop :=
  ∀ (bs tail : Bytes) (i : Instr), Decode.request bs = .ok (i, tail) →
    WellFormed i ∧ isWire i = false ∧
      ((∀ p : Params, bs = encode p i ++ tail) ∨
        ∃ text, i = .atdEnc text false ∧ tail = [] ∧ ∀ p : Params, bs ++ [0x00] = encode p i)

/-- Every frame of the instance's family is read back from its bytes on the line (30_encoding.md R90 to R107). -/
def Obligations.LineFrameDecodesItsEncoding : Prop :=
  ∀ (p : Params) (i : Instr), WellFormed i → wireProto i = some p.proto → Decode.wire p (encode p i) = some i

/-- Bytes are recognised as a frame only if they are exactly the encoding of that frame: delimiters, length field and check
value included (30_encoding.md R90 to R107). -/
def Obligations.RecognisedFrameIsItsEncoding : Prop :=
  ∀ (p : Params) (bs : Bytes) (i : Instr), Decode.wire p bs = some i →
    WellFormed i ∧ wireProto i = some p.proto ∧ encode p i = bs

/-! ## Reset -/

/-- Every register after power-on (70_reset_and_hazards.md R421), the contents of the buffers apart, which R421 leaves
unspecified (log 24). -/
def Obligations.PowerOnRegisters : Prop :=
  let s := State.reset
  s.acc8 = 0x00 ∧ s.crc = 0x0000 ∧ s.accx = 0x00 ∧ s.txLen = 0 ∧ s.rxLen = 0 ∧
  s.ebdAck = false ∧ s.fExt = false ∧ s.fResync = false ∧ s.fNakExh = false ∧ s.fErrExh = false ∧ s.fSumOvf = false ∧
  s.lastErr = 0x00 ∧ s.sesState = .closed ∧ s.rtyState = .idle ∧ s.nakCnt = 0 ∧ s.errCnt = 0 ∧ s.portOpen = false ∧
  s.devAvail = false ∧ s.stopPoll = false ∧ s.maxSum = 0 ∧ s.rejectAboveMax = false ∧ s.accSum = 0 ∧
  s.hasDbError = false ∧ s.escPrev = none ∧ s.escrowed = false ∧ s.lastEscTime = 0 ∧ s.lastCmd = .none ∧
  s.pendAcc = false ∧ s.evq = []

/-- SYS.RESET in every state: the port is closed and its unread bytes discarded if it was open, every register takes its
reset value, EVQ is emptied, no byte is sent (70_reset_and_hazards.md R420, R421; 20_memory.md R68). The parameters are no
registers and stay (R422 (e)). -/
def Obligations.SysResetResult : Prop :=
  ∀ s : State, ∃ t, exec .sysReset s = .next t ∧
    t.acc8 = 0x00 ∧ t.crc = s.params.crcInit ∧ t.accx = 0x00 ∧ t.txLen = 0 ∧ t.rxLen = 0 ∧
    t.ebdAck = false ∧ t.fExt = false ∧ t.fResync = false ∧ t.fNakExh = false ∧ t.fErrExh = false ∧ t.fSumOvf = false ∧
    t.lastErr = 0x00 ∧ t.sesState = .closed ∧ t.rtyState = .idle ∧ t.nakCnt = 0 ∧ t.errCnt = 0 ∧ t.portOpen = false ∧
    t.devAvail = false ∧ t.stopPoll = false ∧ t.maxSum = 0 ∧ t.rejectAboveMax = false ∧ t.accSum = 0 ∧
    t.hasDbError = false ∧ t.escPrev = none ∧ t.escrowed = false ∧ t.lastEscTime = 0 ∧ t.lastCmd = .none ∧
    t.pendAcc = false ∧ t.evq = [] ∧ t.serialRx = (if s.portOpen then [] else s.serialRx) ∧
    t.params = s.params ∧ t.serialTx = s.serialTx

/-! ## CHK -/

/-- The nine CHK operations: each next state, with the result of the three FIN operations (40_checksum.md R134 to R136, R142
to R144, R148 to R150; the step of the CRC register is R141 written out). -/
def Obligations.ChecksumOperations : Prop :=
  ∀ (s : State) (b : Byte),
    (∃ r, exec .chkS8Init s = .next { s with acc8 := 0x00, lastErr := 0x00, result := r }) ∧
    (∃ r, exec (.chkS8Upd b) s = .next { s with
      acc8 := BitVec.ofNat 8 ((s.acc8.toNat + b.toNat) % 256), lastErr := 0x00, result := r }) ∧
    exec .chkS8Fin s = .next { s with
      lastErr := 0x00, result := .byte (BitVec.ofNat 8 ((256 - s.acc8.toNat) % 256)) } ∧
    (∃ r, exec .chkC16Init s = .next { s with crc := s.params.crcInit, lastErr := 0x00, result := r }) ∧
    (∃ r, exec (.chkC16Upd b) s = .next { s with
      crc := (List.range 8).foldl (fun c _ => if c.getLsbD 0 then (c >>> 1) ^^^ 0x8408 else c >>> 1)
        (s.crc ^^^ b.setWidth 16)
      lastErr := 0x00, result := r }) ∧
    exec .chkC16Fin s = .next { s with lastErr := 0x00, result := .half (s.crc ^^^ s.params.crcXorOut) } ∧
    (∃ r, exec .chkX8Init s = .next { s with accx := 0x00, lastErr := 0x00, result := r }) ∧
    (∃ r, exec (.chkX8Upd b) s = .next { s with accx := s.accx ^^^ b, lastErr := 0x00, result := r }) ∧
    exec .chkX8Fin s = .next { s with lastErr := 0x00, result := .byte s.accx }

/-- INIT, UPD of every byte in order, FIN returns the check function of the whole sequence (30_encoding.md R125), and the
sum form of it is the two's complement of the byte sum (40_checksum.md R133): a sequence with its check byte sums to 0
modulo 256, and only that byte does it (R132). -/
def Obligations.StreamedChecksums : Prop :=
  (∀ (s : State) (bs : Bytes),
    (∃ t, runInstrs (.chkS8Init :: bs.map .chkS8Upd ++ [.chkS8Fin]) s = .next t ∧ t.result = .byte (sum8 bs)) ∧
    (∃ t, runInstrs (.chkC16Init :: bs.map .chkC16Upd ++ [.chkC16Fin]) s = .next t ∧
      t.result = .half (crc16 s.params.crcInit s.params.crcXorOut bs)) ∧
    ∃ t, runInstrs (.chkX8Init :: bs.map .chkX8Upd ++ [.chkX8Fin]) s = .next t ∧ t.result = .byte (xor8 bs)) ∧
  (∀ bs : Bytes, sum8 bs = BitVec.ofNat 8 ((256 - byteSum bs % 256) % 256)) ∧
  ∀ (bs : Bytes) (c : Byte), sum8 bs = c ↔ byteSum (bs ++ [c]) % 256 = 0

/-- With start value and final XOR 0, the CRC over a sequence and its two trailer bytes is 0 exactly when the trailer is the
sequence's CRC, low byte first (40_checksum.md R145). -/
def Obligations.CrcResidueIsZero : Prop :=
  (∀ bs : Bytes, crc16 0 0 (bs ++ [(crc16 0 0 bs).setWidth 8, (crc16 0 0 bs >>> 8).setWidth 8]) = 0) ∧
  ∀ (bs : Bytes) (lo hi : Byte),
    crc16 0 0 (bs ++ [lo, hi]) = 0 ↔ crc16 0 0 bs = lo.setWidth 16 ||| (hi.setWidth 16 <<< 8)

/-- Changing one bit of one byte changes each of the three check values; indeed changing one byte in any way does
(40_checksum.md R152). -/
def Obligations.ChecksumsSeeOneChangedByte : Prop :=
  ∀ (xs ys : Bytes) (b c : Byte), b ≠ c →
    sum8 (xs ++ b :: ys) ≠ sum8 (xs ++ c :: ys) ∧
    xor8 (xs ++ b :: ys) ≠ xor8 (xs ++ c :: ys) ∧
    ∀ init xorOut : Half, crc16 init xorOut (xs ++ b :: ys) ≠ crc16 init xorOut (xs ++ c :: ys)

/-- The three generators share no state, and nothing but their own operations and SYS.RESET writes their registers: the
framers compute in temporaries (40_checksum.md R153). -/
def Obligations.ChecksumRegistersIndependent : Prop :=
  ∀ (i : Instr) (s t : State), exec i s = .next t → i ≠ .sysReset →
    (i ≠ .chkS8Init → (∀ b, i ≠ .chkS8Upd b) → t.acc8 = s.acc8) ∧
    (i ≠ .chkC16Init → (∀ b, i ≠ .chkC16Upd b) → t.crc = s.crc) ∧
    (i ≠ .chkX8Init → (∀ b, i ≠ .chkX8Upd b) → t.accx = s.accx)

/-! ## FRM -/

/-- FRM.LOAD: the bytes stand in RXBUF from index 0 with `rx_len` their number, and TXBUF reads as before; bytes that do not
fit are refused with SizeError and nothing is written (41_framers.md R160). -/
def Obligations.FrmLoadResult : Prop :=
  ∀ (s : State) (bs : Bytes),
    (bs.length ≤ s.params.rxCap →
      ∃ t, exec (.frmLoad bs) s = .next t ∧ t.rxLen = bs.length ∧ (∀ a, t.rxbuf.read a = bs[a]?) ∧
        (∀ a, t.txbuf.read a = s.txbuf.read a) ∧
        t = { s with rxbuf := t.rxbuf, rxLen := t.rxLen, lastErr := 0x00, result := t.result }) ∧
    (s.params.rxCap < bs.length → ∃ r, exec (.frmLoad bs) s = .next { s with lastErr := 0x09, result := r })

/-- FRM.CCT.ENC: the frame of 30_encoding.md R90 in TXBUF from index 0, or SizeError with nothing written; an exchange sends
that frame with the parameters' addresses (41_framers.md R162). -/
def Obligations.CctEncodeResult : Prop :=
  ∀ (s : State) (dest src cmd : Byte) (payload : Bytes),
    let f := [dest, BitVec.ofNat 8 payload.length, src, cmd] ++ payload
    let frame := f ++ [BitVec.ofNat 8 ((256 - byteSum f % 256) % 256)]
    (payload.length ≤ 255 → payload.length + 5 ≤ s.params.txCap →
      ∃ t, exec (.frmCctEnc dest src cmd payload) s = .next t ∧ t.txLen = payload.length + 5 ∧
        (∀ a, t.txbuf.read a = frame[a]?) ∧ (∀ a, t.rxbuf.read a = s.rxbuf.read a) ∧
        t = { s with txbuf := t.txbuf, txLen := t.txLen, lastErr := 0x00, result := t.result }) ∧
    (255 < payload.length ∨ s.params.txCap < payload.length + 5 →
      ∃ r, exec (.frmCctEnc dest src cmd payload) s = .next { s with lastErr := 0x09, result := r }) ∧
    (s.params.proto = .cctalk → dest = s.params.cctDevAddr → src = s.params.cctHostAddr →
      encodeExchange s.params s.ebdAck [cmd] payload =
        if 255 < payload.length ∨ s.params.txCap < payload.length + 5 then none else some frame)

/-- FRM.CCN.ENC: the frame of 30_encoding.md R94 in TXBUF from index 0, CRC low byte first, or SizeError with nothing
written; an exchange sends that frame with the parameter's address (41_framers.md R176; 42_exchange_retry.md R230). -/
def Obligations.CcnEncodeResult : Prop :=
  ∀ (s : State) (addr cmd : Byte) (payload : Bytes),
    let f := [0x02, addr, BitVec.ofNat 8 (payload.length + 6), cmd] ++ payload
    let c := crc16 s.params.crcInit s.params.crcXorOut f
    let frame := f ++ [c.setWidth 8, (c >>> 8).setWidth 8]
    (payload.length ≤ 249 → payload.length + 6 ≤ s.params.txCap →
      ∃ t, exec (.frmCcnEnc addr cmd payload) s = .next t ∧ t.txLen = payload.length + 6 ∧
        (∀ a, t.txbuf.read a = frame[a]?) ∧ (∀ a, t.rxbuf.read a = s.rxbuf.read a) ∧
        t = { s with txbuf := t.txbuf, txLen := t.txLen, lastErr := 0x00, result := t.result }) ∧
    (249 < payload.length ∨ s.params.txCap < payload.length + 6 →
      ∃ r, exec (.frmCcnEnc addr cmd payload) s = .next { s with lastErr := 0x09, result := r }) ∧
    (s.params.proto = .ccnet → addr = s.params.ccnAddr →
      encodeExchange s.params s.ebdAck [cmd] payload =
        if 249 < payload.length ∨ s.params.txCap < payload.length + 6 then none else some frame)

/-- FRM.EBD.ENC: the frame of 30_encoding.md R97 in TXBUF from index 0, with `ebd_ack` in the ACK bit and `ebd_ack` itself
unchanged; SizeError with nothing written for a payload that is too long or a command with the ACK bit set; an exchange
sends that frame (41_framers.md R190; 42_exchange_retry.md R230). -/
def Obligations.EbdEncodeResult : Prop :=
  ∀ (s : State) (cmd : Byte) (payload : Bytes),
    let ackMask := 1#8 <<< s.params.ebdAckBit.val
    let body := [BitVec.ofNat 8 (payload.length + 5), cmd ||| (if s.ebdAck then ackMask else 0x00)] ++ payload
    let x := if s.params.ebdCrcCoversPostfix then xor8 (body ++ [0x03]) else xor8 body
    let frame := [0x02] ++ body ++ [0x03, x]
    (payload.length ≤ 250 → payload.length + 5 ≤ s.params.txCap → cmd &&& ackMask = 0 →
      ∃ t, exec (.frmEbdEnc cmd payload) s = .next t ∧ t.txLen = payload.length + 5 ∧
        (∀ a, t.txbuf.read a = frame[a]?) ∧ (∀ a, t.rxbuf.read a = s.rxbuf.read a) ∧
        t = { s with txbuf := t.txbuf, txLen := t.txLen, lastErr := 0x00, result := t.result }) ∧
    (250 < payload.length ∨ s.params.txCap < payload.length + 5 ∨ cmd &&& ackMask ≠ 0 →
      ∃ r, exec (.frmEbdEnc cmd payload) s = .next { s with lastErr := 0x09, result := r }) ∧
    (s.params.proto = .ebds →
      encodeExchange s.params s.ebdAck [cmd] payload =
        if 250 < payload.length ∨ s.params.txCap < payload.length + 5 ∨ cmd &&& ackMask ≠ 0 then none else some frame)

/-- The watchdog operations: FRM.WDG.ENC stores `4F 53 50 cmd` (SizeError where four bytes do not fit, R204; log 26),
FRM.WDG.DEC returns the command of exactly such a frame, FRM.WDG.CHK accepts a reply that holds 76 31 somewhere,
and so does an exchange, which sends no frame for a payload (41_framers.md R204, R205, R206; 42_exchange_retry.md R230). -/
def Obligations.WatchdogOperations : Prop :=
  ∀ s : State,
    (∀ cmd : Byte, 4 ≤ s.params.txCap →
      ∃ t, exec (.frmWdgEnc cmd) s = .next t ∧ t.txLen = 4 ∧
        (∀ a, t.txbuf.read a = [0x4F, 0x53, 0x50, cmd][a]?) ∧ (∀ a, t.rxbuf.read a = s.rxbuf.read a) ∧
        t = { s with txbuf := t.txbuf, txLen := t.txLen, lastErr := 0x00, result := t.result } ∧
        (s.params.proto = .wdg → encodeExchange s.params s.ebdAck [cmd] [] = some [0x4F, 0x53, 0x50, cmd])) ∧
    (∀ (cmd : Byte) (payload : Bytes), s.params.proto = .wdg → payload ≠ [] →
      encodeExchange s.params s.ebdAck [cmd] payload = none) ∧
    (∀ cmd : Byte, s.params.txCap < 4 →
      ∃ r, exec (.frmWdgEnc cmd) s = .next { s with lastErr := 0x09, result := r }) ∧
    (∀ cmd : Byte, s.rxBytes = some [0x4F, 0x53, 0x50, cmd] →
      exec .frmWdgDec s = .next { s with lastErr := 0x00, result := .wdgCommand cmd }) ∧
    (∀ rx : Bytes, s.rxBytes = some rx → (∀ cmd, rx ≠ [0x4F, 0x53, 0x50, cmd]) →
      ∃ r, exec .frmWdgDec s = .next { s with lastErr := 0x02, result := r }) ∧
    (∀ rx : Bytes, s.rxBytes = some rx → (∃ i : Nat, rx[i]? = some 0x76 ∧ rx[i + 1]? = some 0x31) →
      (∃ r, exec .frmWdgChk s = .next { s with lastErr := 0x00, result := r }) ∧
      (s.params.proto = .wdg → decodeReply s.ebdAck rx s = (s, .ok .wdg))) ∧
    ∀ rx : Bytes, s.rxBytes = some rx → (∀ i : Nat, ¬ (rx[i]? = some 0x76 ∧ rx[i + 1]? = some 0x31)) →
      (∃ r, exec .frmWdgChk s = .next { s with lastErr := 0x03, result := r }) ∧
      (s.params.proto = .wdg → decodeReply s.ebdAck rx s = (s, .error .address))

/-- FRM.CCT.DEC: the four checks in their order, and the fields of the frame (41_framers.md R163, R164). Nothing but
`last_err` and the result is written. An exchange decodes its reply so, with the parameter's address. -/
def Obligations.CctDecodeChecks : Prop :=
  ∀ (s : State) (rx : Bytes) (expect : Byte), s.rxBytes = some rx →
    exec (.frmCctDec expect) s = .next
      (if rx.length < 5 then { s with lastErr := 0x02, result := .none }
      else if rx.getD 0 0 ≠ expect then { s with lastErr := 0x03, result := .none }
      else if (rx.getD 1 0).toNat + 5 ≠ rx.length then { s with lastErr := 0x02, result := .none }
      else if sum8 (slice rx 0 (rx.length - 1)) ≠ rx.getD (rx.length - 1) 0 then
        { s with lastErr := 0x01, result := .none }
      else { s with
        lastErr := 0x00
        result := .reply (.cct (rx.getD 2 0) (rx.getD 3 0) (slice rx 4 (rx.length - 1))) }) ∧
    (s.params.proto = .cctalk → expect = s.params.cctHostAddr → DecodesAs (.frmCctDec expect) s.ebdAck rx s)

/-- FRM.CCN.DEC: the first checksum-valid candidate in ascending order of its index is the answer, its address is compared
and `f_resync` says whether it starts past index 0; without one the error says whether a whole candidate failed its CRC
(41_framers.md R178 to R183). An exchange decodes its reply so, with the parameter's address. -/
def Obligations.CcnDecodeScan : Prop :=
  ∀ (s : State) (rx : Bytes) (expect : Byte), s.rxBytes = some rx →
    (∀ i len, CcnValid s.params rx i len → (∀ j m, j < i → ¬ CcnValid s.params rx j m) →
      exec (.frmCcnDec expect) s = .next
        (if rx.getD (i + 1) 0 = expect then
          { s with
            fResync := decide (0 < i), lastErr := 0x00
            result := .reply (.ccn (rx.getD (i + 3) 0) (slice rx (i + 4) (i + len - 2)) i) }
        else { s with fResync := false, lastErr := 0x03, result := .wrongAddress i })) ∧
    ((∀ i len, ¬ CcnValid s.params rx i len) → (∃ i len, CcnWhole rx i len) →
      ∃ r, exec (.frmCcnDec expect) s = .next { s with fResync := false, lastErr := 0x01, result := r }) ∧
    ((∀ i len, ¬ CcnWhole rx i len) →
      ∃ r, exec (.frmCcnDec expect) s = .next { s with fResync := false, lastErr := 0x02, result := r }) ∧
    (s.params.proto = .ccnet → expect = s.params.ccnAddr → DecodesAs (.frmCcnDec expect) s.ebdAck rx s)

/-- FRM.EBD.DEC: the checks (a) to (f) in their order, the fields of the frame, and the extended marker (41_framers.md R192,
R193, R196). Nothing but `f_ext`, `last_err` and the result is written. An exchange decodes its reply so, with the bit it
sent. -/
def Obligations.EbdDecodeChecks : Prop :=
  ∀ (s : State) (rx : Bytes) (expect : Bool), s.rxBytes = some rx →
    let ackMask := 1#8 <<< s.params.ebdAckBit.val
    let n := rx.length
    let x := xor8 (slice rx 1 (if s.params.ebdCrcCoversPostfix then n - 1 else n - 2))
    let ctl := rx.getD 2 0
    let payload := slice rx 3 (n - 2)
    exec (.frmEbdDec expect) s = .next
      (if n < 5 ∨ rx.getD 0 0 ≠ 0x02 ∨ (rx.getD 1 0).toNat ≠ n ∨ rx.getD (n - 2) 0 ≠ 0x03 then
        { s with fExt := false, lastErr := 0x02, result := .none }
      else if x ≠ rx.getD (n - 1) 0 then { s with fExt := false, lastErr := 0x01, result := .none }
      else if (decide (ctl &&& ackMask ≠ 0)) ≠ expect then { s with fExt := false, lastErr := 0x04, result := .none }
      else if payload.head? = some 0x70 then
        { s with fExt := true, lastErr := 0x00, result := .reply (.ebd (ctl &&& ~~~ackMask) payload.tail) }
      else { s with fExt := false, lastErr := 0x00, result := .reply (.ebd (ctl &&& ~~~ackMask) payload) }) ∧
    (s.params.proto = .ebds → DecodesAs (.frmEbdDec expect) expect rx s)

/-- What an encoder of a binary family stores, loaded into RXBUF, decodes to what was encoded: cctalk, CCNET at offset 0,
EBDS for payloads that do not start with 0x70, and the watchdog request (41_framers.md R166, R187, R198, R205, R211). -/
def Obligations.FrameRoundTrips : Prop :=
  (∀ (s : State) (dest src cmd : Byte) (payload : Bytes), payload.length ≤ 255 →
    payload.length + 5 ≤ s.params.txCap → payload.length + 5 ≤ s.params.rxCap →
    ∃ t f u, exec (.frmCctEnc dest src cmd payload) s = .next t ∧ t.txBytes = some f ∧
      runInstrs [.frmLoad f, .frmCctDec dest] t = .next u ∧ u.lastErr = 0x00 ∧
      u.result = .reply (.cct src cmd payload)) ∧
  (∀ (s : State) (addr cmd : Byte) (payload : Bytes), payload.length ≤ 249 →
    payload.length + 6 ≤ s.params.txCap → payload.length + 6 ≤ s.params.rxCap →
    ∃ t f u, exec (.frmCcnEnc addr cmd payload) s = .next t ∧ t.txBytes = some f ∧
      runInstrs [.frmLoad f, .frmCcnDec addr] t = .next u ∧ u.lastErr = 0x00 ∧ u.fResync = false ∧
      u.result = .reply (.ccn cmd payload 0)) ∧
  (∀ (s : State) (cmd : Byte) (payload : Bytes), payload.length ≤ 250 → cmd &&& (1#8 <<< s.params.ebdAckBit.val) = 0 →
    payload.length + 5 ≤ s.params.txCap → payload.length + 5 ≤ s.params.rxCap →
    ∃ t f u, exec (.frmEbdEnc cmd payload) s = .next t ∧ t.txBytes = some f ∧
      runInstrs [.frmLoad f, .frmEbdDec s.ebdAck] t = .next u ∧ u.lastErr = 0x00 ∧
      (payload.head? ≠ some 0x70 → u.fExt = false ∧ u.result = .reply (.ebd cmd payload)) ∧
      (payload.head? = some 0x70 → u.fExt = true ∧ u.result = .reply (.ebd cmd payload.tail))) ∧
  ∀ (s : State) (cmd : Byte), 4 ≤ s.params.txCap → 4 ≤ s.params.rxCap →
    ∃ t f u, exec (.frmWdgEnc cmd) s = .next t ∧ t.txBytes = some f ∧
      runInstrs [.frmLoad f, .frmWdgDec] t = .next u ∧ u.lastErr = 0x00 ∧ u.result = .wdgCommand cmd

/-- What the decoders report for a correct frame with one byte changed, so in particular with one bit flipped: cctalk,
EBDS, the watchdog request, which has no redundancy, and CCNET: unless its length byte was changed, no frame at index 0 is
returned, and where no candidate is valid (for SYNC and the bytes the CRC covers: no later one) the error is the one of the
table: ChecksumError where a whole candidate failed its CRC, LengthError where there is none (41_framers.md R210). -/
def Obligations.DamagedFrameErrors : Prop :=
  (∀ (s : State) (dest src cmd b : Byte) (payload : Bytes) (k : Nat), payload.length ≤ 255 →
    k < payload.length + 5 → (cctFrame dest src cmd payload)[k]? ≠ some b →
    s.rxBytes = some ((cctFrame dest src cmd payload).set k b) →
    ∃ r, exec (.frmCctDec dest) s = .next { s with
      lastErr := if k = 0 then 0x03 else if k = 1 then 0x02 else 0x01, result := r }) ∧
  (∀ (s : State) (ctl b : Byte) (data : Bytes) (expect : Bool) (k : Nat), data.length ≤ 250 →
    k < data.length + 5 → (ebdFrame s.params ctl data)[k]? ≠ some b →
    s.rxBytes = some ((ebdFrame s.params ctl data).set k b) →
    ∃ r, exec (.frmEbdDec expect) s = .next { s with
      fExt := false, lastErr := if k = 0 ∨ k = 1 ∨ k = data.length + 3 then 0x02 else 0x01, result := r }) ∧
  (∀ (s : State) (addr cmd expect b : Byte) (payload : Bytes) (k : Nat), payload.length ≤ 249 →
    k < payload.length + 6 → (ccnFrame s.params addr cmd payload)[k]? ≠ some b →
    let rx := (ccnFrame s.params addr cmd payload).set k b
    s.rxBytes = some rx →
    ∃ t, exec (.frmCcnDec expect) s = .next t ∧
      (k ≠ 2 → (∀ c bs, t.result ≠ .reply (.ccn c bs 0)) ∧ t.result ≠ .wrongAddress 0) ∧
      (k ≠ 0 → k ≠ 2 → (∀ i len, 1 ≤ i → ¬ CcnValid s.params rx i len) → t.lastErr = 0x01) ∧
      (k = 0 → (∀ i len, 1 ≤ i → ¬ CcnWhole rx i len) → t.lastErr = 0x02) ∧
      (k = 0 → (∀ i len, 1 ≤ i → ¬ CcnValid s.params rx i len) → (∃ i len, 1 ≤ i ∧ CcnWhole rx i len) →
        t.lastErr = 0x01) ∧
      (k = 2 → (∀ i len, ¬ CcnValid s.params rx i len) → (∃ i len, CcnWhole rx i len) → t.lastErr = 0x01) ∧
      (k = 2 → (∀ i len, ¬ CcnWhole rx i len) → t.lastErr = 0x02)) ∧
  ∀ (s : State) (cmd b : Byte) (k : Nat), k < 4 → (wdgFrame cmd)[k]? ≠ some b →
    s.rxBytes = some ((wdgFrame cmd).set k b) →
    ∃ r, exec .frmWdgDec s = .next { s with lastErr := if k = 3 then 0x00 else 0x02, result := r } ∧
      (k = 3 → r = .wdgCommand b)

/-! ## ATD -/

/-- ATD.ENC: the text and its terminator in TXBUF from index 0, or SizeError with nothing written; an exchange
sends that line with CR, and no line for a payload (44_at_decoder.md R332; 42_exchange_retry.md R230). -/
def Obligations.AtdEncodeResult : Prop :=
  ∀ (s : State) (text : Bytes) (term : Bool),
    let refused := s.params.txCap < text.length + 1 ∨ 0x0D ∈ text ∨ 0x0A ∈ text ∨ (term = true ∧ 0x1A ∈ text)
    (¬ refused →
      ∃ t, exec (.atdEnc text term) s = .next t ∧ t.txLen = text.length + 1 ∧
        (∀ a, t.txbuf.read a = (text ++ [if term then 0x1A else 0x0D])[a]?) ∧
        (∀ a, t.rxbuf.read a = s.rxbuf.read a) ∧
        t = { s with txbuf := t.txbuf, txLen := t.txLen, lastErr := 0x00, result := t.result }) ∧
    (refused → ∃ r, exec (.atdEnc text term) s = .next { s with lastErr := 0x09, result := r }) ∧
    (s.params.proto = .at → term = false →
      (¬ refused → encodeExchange s.params s.ebdAck text [] = some (text ++ [0x0D])) ∧
      (refused → encodeExchange s.params s.ebdAck text [] = none)) ∧
    (s.params.proto = .at → ∀ payload, payload ≠ [] → encodeExchange s.params s.ebdAck text payload = none)

/-- ATD.DEC: with fewer than two CRLF pairs, LengthError; else the bytes between the first and the last pair, cut at every
pair, empty lines dropped, the last line classified; an exchange decodes its reply so (44_at_decoder.md R333 to R336, R338). -/
def Obligations.AtdDecodeResponse : Prop :=
  ∀ (s : State) (rx : Bytes), s.rxBytes = some rx →
    let pairs := (List.range rx.length).filter fun i => CrlfAt rx i
    (s.params.proto = .at → DecodesAs .atdDec s.ebdAck rx s) ∧
    (pairs.length < 2 → ∃ r, exec .atdDec s = .next { s with lastErr := 0x02, result := r }) ∧
    ∀ a b, pairs.head? = some a → pairs.getLast? = some b → a ≠ b →
      ∃ parts : List Bytes,
        List.intercalate [0x0D, 0x0A] parts = slice rx (a + 2) b ∧ parts ≠ [] ∧
        (∀ l ∈ parts, ∀ i, ¬ CrlfAt l i) ∧
        (parts.filter (fun l => l ≠ []) = [] →
          exec .atdDec s = .next { s with
            lastErr := 0x00, result := .reply (.at .unclassified [] [] (slice rx (a + 2) b)) }) ∧
        ∀ info term, parts.filter (fun l => l ≠ []) = info ++ [term] →
          exec .atdDec s = .next { s with
            lastErr := 0x00, result := .reply (.at (classify term) term info (slice rx (a + 2) b)) }

/-- The class of a terminal line (44_at_decoder.md R337; the strings are 30_encoding.md R105). -/
def Obligations.AtTerminalClasses : Prop :=
  ∀ t : Bytes,
    (classify t = .success ↔ t = [0x4F, 0x4B] ∨ t.take 7 = [0x43, 0x4F, 0x4E, 0x4E, 0x45, 0x43, 0x54]) ∧
    (classify t = .failure ↔
      t = [0x45, 0x52, 0x52, 0x4F, 0x52] ∨ t = [0x42, 0x55, 0x53, 0x59] ∨
      t = [0x4E, 0x4F, 0x20, 0x43, 0x41, 0x52, 0x52, 0x49, 0x45, 0x52] ∨
      t = [0x4E, 0x4F, 0x20, 0x44, 0x49, 0x41, 0x4C, 0x54, 0x4F, 0x4E, 0x45] ∨
      t = [0x4E, 0x4F, 0x20, 0x41, 0x4E, 0x53, 0x57, 0x45, 0x52]) ∧
    (classify t = .unsolicited ↔ t = [0x52, 0x49, 0x4E, 0x47])

/-- ATD.USSD: the text between the first envelope opening and the first quote after it goes through the chain; without an
opening or a closing quote the status is NotFound (44_at_decoder.md R350, R351). -/
def Obligations.UssdEnvelope : Prop :=
  ∀ (s : State) (rx : Bytes), s.rxBytes = some rx →
    ((∀ i, ¬ EnvelopeAt rx i) → ∃ r, exec .atdUssd s = .next { s with lastErr := 0x08, result := r }) ∧
    ∀ i, EnvelopeAt rx i → (∀ j, j < i → ¬ EnvelopeAt rx j) →
      ((∀ j, i + 10 ≤ j → rx[j]? ≠ some 0x22) →
        ∃ r, exec .atdUssd s = .next { s with lastErr := 0x08, result := r }) ∧
      ∀ q, i + 10 ≤ q → rx[q]? = some 0x22 → (∀ j, i + 10 ≤ j → j < q → rx[j]? ≠ some 0x22) →
        exec .atdUssd s = .next { s with
          lastErr := 0x00
          result := .ussd (ussdChain s.params (slice rx (i + 10) q)).1
            (ussdChain s.params (slice rx (i + 10) q)).2 }

/-- The chain of decodings: plain, then GSM 7-bit, then UCS2, the latter two only for hexadecimal text; the first non-empty
match wins, and without one the text is empty (44_at_decoder.md R350, R352, R361). -/
def Obligations.UssdChainOrder : Prop :=
  ∀ (p : Params) (raw : Bytes),
    let hit := fun text m => ussdMatch p text = some m ∧ m ≠ []
    let plain := raw.map fun b => b.setWidth 16
    let gsm := gsm7Decode p (unhex raw)
    let ucs := ucs2Decode (unhex raw)
    (∀ m, hit plain m → ussdChain p raw = (m, .plain)) ∧
    ((∀ m, ¬ hit plain m) →
      (∀ m, hexOk raw = true → hit gsm m → ussdChain p raw = (m, .gsm7)) ∧
      ((∀ m, ¬ (hexOk raw = true ∧ hit gsm m)) →
        (∀ m, hexOk raw = true → raw.length % 4 = 0 → hit ucs m → ussdChain p raw = (m, .ucs2)) ∧
        ((∀ m, ¬ (hexOk raw = true ∧ raw.length % 4 = 0 ∧ hit ucs m)) → ussdChain p raw = ([], .none)))) ∧
    ((ussdChain p raw).1 = [] ∨ ∃ text, ussdMatch p text = some (ussdChain p raw).1)

/-- GSM 7-bit unpacking: floor(8n/7) septets, bit j of septet k is bit 7k+j of the octets read least significant bit first,
each mapped through the table of the instance (44_at_decoder.md R355, R356); the default table is that of R357, entry by
entry. -/
def Obligations.Gsm7Unpacking : Prop :=
  (∀ (p : Params) (o : Bytes), (gsm7Septets o).length = 8 * o.length / 7 ∧ (gsm7Decode p o).length = 8 * o.length / 7 ∧
    ∀ k v, (gsm7Septets o)[k]? = some v → v < 128 ∧ (gsm7Decode p o)[k]? = p.gsm7Table[v]? ∧
      ∀ j, j < 7 → v.testBit j = (o.getD ((7 * k + j) / 8) 0).getLsbD ((7 * k + j) % 8)) ∧
  State.reset.params.gsm7Table = Config.gsm7Default ∧
  (∀ v : Nat, (0x20 ≤ v ∧ v ≤ 0x3F ∧ v ≠ 0x24) ∨ (0x41 ≤ v ∧ v ≤ 0x5A) ∨ (0x61 ≤ v ∧ v ≤ 0x7A) →
    Config.gsm7Default[v]? = some (BitVec.ofNat 16 v)) ∧
  ∀ q ∈ [(0x00, 0x0040#16), (0x01, 0x00A3), (0x02, 0x0024), (0x03, 0x00A5), (0x04, 0x00E8), (0x05, 0x00E9), (0x06, 0x00F9),
      (0x07, 0x00EC), (0x08, 0x00F2), (0x09, 0x00C7), (0x0A, 0x000A), (0x0B, 0x00D8), (0x0C, 0x00F8), (0x0D, 0x000D),
      (0x0E, 0x00C5), (0x0F, 0x00E5)] ++
    [(0x10, 0x0394#16), (0x11, 0x005F), (0x12, 0x03A6), (0x13, 0x0393), (0x14, 0x039B), (0x15, 0x03A9), (0x16, 0x03A0),
      (0x17, 0x03A8), (0x18, 0x03A3), (0x19, 0x0398), (0x1A, 0x039E), (0x1B, 0x001B), (0x1C, 0x00C6), (0x1D, 0x00E6),
      (0x1E, 0x00DF), (0x1F, 0x00C9)] ++
    [(0x24, 0x00A4#16), (0x40, 0x00A1), (0x5B, 0x00C4), (0x5C, 0x00D6), (0x5D, 0x00D1), (0x5E, 0x00DC), (0x5F, 0x00A7),
      (0x60, 0x00BF), (0x7B, 0x00E4), (0x7C, 0x00F6), (0x7D, 0x00F1), (0x7E, 0x00FC), (0x7F, 0x00E0)],
    Config.gsm7Default[q.1]? = some q.2

/-- Hexadecimal carriage and UCS2: `hex_ok` holds of a non-empty sequence of an even number of hexadecimal digits, `unhex`
halves it, without it neither hexadecimal stage is tried, and UCS2 takes the octets in pairs, most significant first
(44_at_decoder.md R353, R360). -/
def Obligations.HexAndUcs2Decoding : Prop :=
  (∀ raw : Bytes, hexOk raw = true ↔ raw ≠ [] ∧ raw.length % 2 = 0 ∧
    ∀ b ∈ raw, (0x30 ≤ b.toNat ∧ b.toNat ≤ 0x39) ∨ (0x41 ≤ b.toNat ∧ b.toNat ≤ 0x46) ∨
      (0x61 ≤ b.toNat ∧ b.toNat ≤ 0x66)) ∧
  (∀ raw : Bytes, hexOk raw = true → 2 * (unhex raw).length = raw.length ∧
    ∀ k x y, raw[2 * k]? = some x → raw[2 * k + 1]? = some y →
      (unhex raw)[k]? = some (BitVec.ofNat 8 (16 * (hexVal x).getD 0 + (hexVal y).getD 0))) ∧
  (∀ b : Byte, (0x30 ≤ b.toNat ∧ b.toNat ≤ 0x39 → hexVal b = some (b.toNat - 0x30)) ∧
    (0x41 ≤ b.toNat ∧ b.toNat ≤ 0x46 → hexVal b = some (b.toNat - 0x41 + 10)) ∧
    (0x61 ≤ b.toNat ∧ b.toNat ≤ 0x66 → hexVal b = some (b.toNat - 0x61 + 10))) ∧
  (∀ (p : Params) (raw : Bytes), hexOk raw = false → (ussdChain p raw).2 ≠ .gsm7 ∧ (ussdChain p raw).2 ≠ .ucs2) ∧
  ∀ o : Bytes, o.length % 2 = 0 → 2 * (ucs2Decode o).length = o.length ∧
    ∀ k hi lo, o[2 * k]? = some hi → o[2 * k + 1]? = some lo →
      (ucs2Decode o)[k]? = some (BitVec.ofNat 16 (256 * hi.toNat + lo.toNat))

/-! ## SES -/

/-- The legality table: an operation in a state where it is not marked "yes", and SES.EXCHANGE with the port closed, ends
with ILLEGAL and nothing else changes; between operations, where `port_open` is 1 exactly in Polling, no other operation ends
with ILLEGAL, but for a SES.CYCLE whose poll, Stack or Return command fits no frame, which does so by the model's inference
(42_exchange_retry.md R226; 60_exceptions.md R406; log 16). -/
def Obligations.RefusedOutsideLegalState : Prop :=
  let refusedIn := fun (i : Instr) (s : State) =>
    (i = .sesProbe ∧ s.sesState ≠ .closed) ∨
    ((i = .sesStart ∨ i = .sesClose) ∧ s.sesState ≠ .identified) ∨
    ((i = .sesStop ∨ (∃ now, i = .sesCycle now) ∨ ∃ st now, i = .escPoll st now) ∧ s.sesState ≠ .polling) ∨
    ((∃ cmd payload, i = .sesExchange cmd payload) ∧
      (s.sesState = .closed ∨ s.sesState = .identified ∨ s.portOpen = false))
  let misfitCycle := fun (i : Instr) (s : State) =>
    (∃ now, i = .sesCycle now) ∧ s.sesState = .polling ∧ s.stopPoll = false ∧
      ∃ ack, ∃ c ∈ [s.params.cmdPoll, s.params.cmdStack, s.params.cmdReturn], encodeExchange s.params ack c [] = none
  (∀ (s : State) (i : Instr), refusedIn i s → ∃ r, exec i s = .next { s with lastErr := 0x0A, result := r }) ∧
  ∀ (s t : State) (i : Instr), isWire i = false → s.sesState ≠ .probing → (s.portOpen = true ↔ s.sesState = .polling) →
    exec i s = .next t → t.lastErr = 0x0A → refusedIn i s ∨ misfitCycle i s

/-- SES.START, SES.STOP, SES.CLOSE and SES.STOPREQ; the answer of PortOpen is the environment's (42_exchange_retry.md R222 to
R225; 20_memory.md R69; that it is read from a script or an open constant is log 6). -/
def Obligations.SessionStateOperations : Prop :=
  ∀ s : State,
    (s.sesState = .identified → s.openAnswer = true →
      ∃ r, exec .sesStart s = .next { s with
        sesState := .polling, portOpen := true, serialRx := [], stopPoll := false
        accSum := 0, fSumOvf := false, escPrev := none, escrowed := false, lastCmd := .none, pendAcc := false
        openScript := s.openScript.tail, portCalls := s.portCalls + 1, lastErr := 0x00, result := r }) ∧
    (s.sesState = .identified → s.openAnswer = false →
      ∃ r, exec .sesStart s = .next { s with
        sesState := .closed, devAvail := false
        openScript := s.openScript.tail, portCalls := s.portCalls + 1, lastErr := 0x07, result := r }) ∧
    (s.sesState = .polling →
      ∃ r, exec .sesStop s = .next { s with
        sesState := .closed, portOpen := false, serialRx := []
        accSum := 0, fSumOvf := false, escPrev := none, escrowed := false, lastCmd := .none, pendAcc := false
        lastErr := 0x00, result := r }) ∧
    (s.sesState = .identified →
      ∃ r, exec .sesClose s = .next { s with
        sesState := .closed, devAvail := false, lastErr := 0x00, result := r }) ∧
    (s.sesState ≠ .identified →
      (∃ r, exec .sesStart s = .next { s with lastErr := 0x0A, result := r }) ∧
      ∃ r, exec .sesClose s = .next { s with lastErr := 0x0A, result := r }) ∧
    (s.sesState ≠ .polling → ∃ r, exec .sesStop s = .next { s with lastErr := 0x0A, result := r }) ∧
    ∃ r, exec .sesStopreq s = .next { s with stopPoll := true, lastErr := 0x00, result := r }

/-- SES.PROBE of a device with the signature. First, whole: a probe whose port opens, whose first transmission is answered by a
frame that decodes, is not NAK/BUSY and carries the family's signature, with no follow-ups configured: the identity is
returned, the port is closed again, the state is Identified; nothing is traced, since the state was not Polling. Then,
whatever the port answers: after an identification with the signature the follow-ups run one after the other; one that fails
keeps its place in the replies with its status and does not undo the identification, a PortError ends the probe
(42_exchange_retry.md R240, R242, R247, R251; log 6). -/
def Obligations.ProbeIdentifiesDevice : Prop :=
  (∀ (s : State) (os ws : List Bool) (rs : List Bytes) (arr f : Bytes) (r : Reply),
    s.sesState = .closed → s.openScript = true :: os → s.writeScript = true :: ws → s.readScript = arr :: rs →
    encodeExchange s.params s.ebdAck (identCommand s.params) [] = some f →
    arr.take s.params.rxCap ≠ [] →
    (decodeReply s.ebdAck (arr.take s.params.rxCap) s).2 = .ok r →
    nakBusy s.params r = false → signature s.params r = true → s.params.probeFollowups = [] →
    ∃ t, exec .sesProbe s = .next t ∧ t.lastErr = 0x00 ∧ t.result = .ident r [] ∧
      t.sesState = .identified ∧ t.devAvail = true ∧ t.portOpen = false ∧ t.serialRx = [] ∧
      t.serialTx = s.serialTx ++ f ∧ t.rtyState = .idle ∧ t.nakCnt = 0 ∧ t.errCnt = 0 ∧
      (∀ a, t.txbuf.read a = f[a]?) ∧ t.txLen = f.length ∧
      (∀ a, t.rxbuf.read a = (arr.take s.params.rxCap)[a]?) ∧ t.rxLen = (arr.take s.params.rxCap).length ∧
      t.ebdAck = (if s.params.proto = .ebds then !s.ebdAck else s.ebdAck) ∧
      t = { s with
        lastErr := 0x00, result := .ident r [], sesState := .identified, devAvail := true, portOpen := false
        serialRx := [], serialTx := s.serialTx ++ f, rtyState := .idle, nakCnt := 0, errCnt := 0
        fNakExh := false, fErrExh := false, txbuf := t.txbuf, txLen := t.txLen, rxbuf := t.rxbuf, rxLen := t.rxLen
        ebdAck := t.ebdAck, fExt := t.fExt, fResync := t.fResync
        openScript := os, writeScript := ws, readScript := rs, portCalls := t.portCalls }) ∧
  ∀ (s a : State) (d : Reply), s.sesState = .closed → s.openAnswer = true →
    exec (.sesExchange (identCommand s.params) []) s.probing = .next a → a.lastErr = 0x00 → a.result = .reply d →
    signature s.params d = true →
    (∀ t, followupRun s.params.probeFollowups { a with devAvail := true } = (t, none) →
      ∃ r, exec .sesProbe s = .next { t with lastErr := 0x07, result := r }) ∧
    ∀ t shown, followupRun s.params.probeFollowups { a with devAvail := true } = (t, some shown) →
      ∃ replies, replies.map ExchEnd.shown = shown ∧ exec .sesProbe s = .next { t with
        portOpen := false, serialRx := [], sesState := .identified, lastErr := 0x00, result := .ident d replies }

/-- How a probe ends. From Closed, whatever happens: the port closed, Identified and available, or Closed and unavailable with
PortError or NotFound, and the escrow registers, the limits, the trace and EVQ as before. PortError where PortOpen fails or a
write of the identification does; NotFound where the identification ends with Exhausted, Timeout or SizeError or its reply
lacks the signature (42_exchange_retry.md R240, R241, R242). -/
def Obligations.ProbeAlwaysClosesPort : Prop :=
  (∀ s t : State, Inv s → s.sesState = .closed → exec .sesProbe s = .next t →
    t.portOpen = false ∧ t.serialRx = [] ∧ t.trace = s.trace ∧ t.evq = s.evq ∧ t.maxSum = s.maxSum ∧
    t.rejectAboveMax = s.rejectAboveMax ∧ t.hasDbError = s.hasDbError ∧ EscCleared t ∧
    ((t.lastErr = 0x00 ∧ t.sesState = .identified ∧ t.devAvail = true) ∨
      ((t.lastErr = 0x07 ∨ t.lastErr = 0x08) ∧ t.sesState = .closed ∧ t.devAvail = false))) ∧
  (∀ s : State, s.sesState = .closed → s.openAnswer = false →
    ∃ r, exec .sesProbe s = .next { s with
      devAvail := false, openScript := s.openScript.tail, portCalls := s.portCalls + 1, lastErr := 0x07, result := r }) ∧
  ∀ s a : State, s.sesState = .closed → s.openAnswer = true →
    exec (.sesExchange (identCommand s.params) []) s.probing = .next a →
    (a.lastErr = 0x07 → ∃ r, exec .sesProbe s = .next { a with result := r }) ∧
    (a.lastErr = 0x05 ∨ a.lastErr = 0x06 ∨ a.lastErr = 0x09 ∨
        (a.lastErr = 0x00 ∧ ∀ d, a.result = .reply d → signature s.params d = false) →
      ∃ r, exec .sesProbe s = .next { a with
        portOpen := false, serialRx := [], sesState := .closed, devAvail := false, lastErr := 0x08, result := r })

/-- The identity signatures: cctalk by the first three bytes `01 00 02` of the reply, CCNET by its first reply byte, EBDS by
a non-empty payload, watchdog always, AT by the class Success; the identification command of CCNET is the poll command
(42_exchange_retry.md R243 to R246). -/
def Obligations.IdentitySignatures : Prop :=
  ∀ (p : Params) (rx : Bytes) (src cmd : Byte) (payload term body : Bytes) (info : List Bytes) (offset : Nat)
    (cls : AtClass),
    (p.cctHostAddr = 0x01 → cctDecode p.cctHostAddr rx = .ok (src, cmd, payload) →
      (signature p (.cct src cmd payload) = true ↔ rx.take 3 = [0x01, 0x00, 0x02])) ∧
    (signature p (.ccn cmd payload offset) = true ↔ cmd ≠ p.ccnFailByte) ∧
    (p.proto = .ccnet → identCommand p = p.cmdPoll) ∧ (p.proto ≠ .ccnet → identCommand p = p.cmdIdent) ∧
    (signature p (.ebd cmd payload) = true ↔ 1 ≤ payload.length) ∧
    signature p .wdg = true ∧
    (signature p (.at cls term info body) = true ↔ cls = .success)

/-- An exchange that is answered on its first transmission, whole: the frame sent and traced, the reply in RXBUF and traced,
counters and exhaustion flags 0, the alternating bit complemented on EBDS, the answer returned; every other field as before
(42_exchange_retry.md R230, R232, R238; 20_memory.md R79; log 6, log 9). -/
def Obligations.ExchangeAnswered : Prop :=
  ∀ (s : State) (cmd payload f arr : Bytes) (ws : List Bool) (rs : List Bytes) (r : Reply),
    let rx := (s.serialRx ++ arr).take s.params.rxCap
    s.sesState = .polling → s.portOpen = true → s.writeScript = true :: ws → s.readScript = arr :: rs →
    encodeExchange s.params s.ebdAck cmd payload = some f → rx ≠ [] →
    (decodeReply s.ebdAck rx s).2 = .ok r → nakBusy s.params r = false →
    ∃ t, exec (.sesExchange cmd payload) s = .next t ∧
      (∀ a, t.txbuf.read a = f[a]?) ∧ (∀ a, t.rxbuf.read a = rx[a]?) ∧
      t = { s with
        lastErr := 0x00, result := .reply r, rtyState := .idle, nakCnt := 0, errCnt := 0
        fNakExh := false, fErrExh := false
        fResync := (decodeReply s.ebdAck rx s).1.fResync, fExt := (decodeReply s.ebdAck rx s).1.fExt
        ebdAck := if s.params.proto = .ebds then !s.ebdAck else s.ebdAck
        txbuf := t.txbuf, txLen := f.length, rxbuf := t.rxbuf, rxLen := rx.length
        serialTx := s.serialTx ++ f, serialRx := (s.serialRx ++ arr).drop s.params.rxCap
        trace := s.trace ++ [(.tx, f), (.rx, rx)]
        writeScript := ws, readScript := rs, portCalls := t.portCalls }

/-- An empty read ends the exchange at once with Timeout, after one transmission, with neither counter touched, the session
as it was and the alternating bit complemented (42_exchange_retry.md R234, R238; 60_exceptions.md R383). -/
def Obligations.ExchangeTimesOut : Prop :=
  ∀ (s : State) (cmd payload f : Bytes) (ws : List Bool) (rs : List Bytes),
    s.sesState = .polling → s.portOpen = true → s.serialRx = [] → s.writeScript = true :: ws → s.readScript = [] :: rs →
    encodeExchange s.params s.ebdAck cmd payload = some f →
    ∃ t r, exec (.sesExchange cmd payload) s = .next t ∧
      (∀ a, t.txbuf.read a = f[a]?) ∧ (∀ a, t.rxbuf.read a = none) ∧
      t = { s with
        lastErr := 0x06, result := r, rtyState := .idle, nakCnt := 0, errCnt := 0, fNakExh := false, fErrExh := false
        ebdAck := if s.params.proto = .ebds then !s.ebdAck else s.ebdAck
        txbuf := t.txbuf, txLen := f.length, rxbuf := t.rxbuf, rxLen := 0, serialTx := s.serialTx ++ f
        trace := s.trace ++ [(.tx, f), (.rx, [])]
        writeScript := ws, readScript := rs, portCalls := t.portCalls }

/-- A failed write tears the session down at once: port closed, session Closed, device unavailable, escrow registers
cleared; it is not repeated, no read follows it and RXBUF keeps its bytes; how much of the frame reached the line is open
(42_exchange_retry.md R239; 20_memory.md R66). In the middle of an exchange the counters keep their values. -/
def Obligations.PortFailureTearsDown : Prop :=
  (∀ (s : State) (cmd payload f : Bytes) (ws : List Bool),
    s.sesState = .polling → s.portOpen = true → s.writeScript = false :: ws →
    encodeExchange s.params s.ebdAck cmd payload = some f →
    ∃ t r part, exec (.sesExchange cmd payload) s = .next t ∧ part <+: f ∧ (∀ a, t.txbuf.read a = f[a]?) ∧
      t = { s with
        lastErr := 0x07, result := r, rtyState := .idle, nakCnt := 0, errCnt := 0, fNakExh := false, fErrExh := false
        ebdAck := if s.params.proto = .ebds then !s.ebdAck else s.ebdAck
        txbuf := t.txbuf, txLen := f.length, serialTx := s.serialTx ++ part, serialRx := []
        trace := s.trace ++ [(.tx, f)]
        portOpen := false, sesState := .closed, devAvail := false
        accSum := 0, fSumOvf := false, escPrev := none, escrowed := false, lastCmd := .none, pendAcc := false
        writeScript := ws, portCalls := s.portCalls + 1 }) ∧
  ∀ (s : State) (f : Bytes) (ack : Bool) (ws : List Bool), s.writeScript = false :: ws →
    ∃ t, attempt f ack s = .ended t (.failed .portError) ∧ t.nakCnt = s.nakCnt ∧ t.errCnt = s.errCnt ∧
      t.readScript = s.readScript ∧ t.portCalls = s.portCalls + 1

/-- Which decoded replies are NAK/BUSY: with PAYLOAD exactly a cctalk payload of the one byte 05 or 06, with COMMAND exactly
an empty payload with the command 05 or 06, a watchdog or AT reply never (41_framers.md R165; 30_encoding.md R93;
42_exchange_retry.md R233). And the rows Decode of the micro-step table: a counted error or NAK/BUSY leads back to Write below
its bound and to Idle with its flag set at it; a good frame leads to Idle (42_exchange_retry.md R231, R235, R236). -/
def Obligations.DecodeMicroStep : Prop :=
  (∀ (p : Params) (src cmd : Byte) (payload : Bytes),
    (p.cctNakBusyField = .payload →
      (nakBusy p (.cct src cmd payload) = true ↔ payload = [0x05] ∨ payload = [0x06])) ∧
    (p.cctNakBusyField = .command →
      (nakBusy p (.cct src cmd payload) = true ↔ payload = [] ∧ (cmd = 0x05 ∨ cmd = 0x06)))) ∧
  (∀ p : Params, nakBusy p .wdg = false ∧ ∀ cls term info body, nakBusy p (.at cls term info body) = false) ∧
  ∀ (s : State) (ack : Bool) (rx : Bytes),
    (∀ e, (decodeReply ack rx s).2 = .error e → s.errCnt.toNat + 1 < maxErr s.params →
      ∃ t, decodePhase ack rx s = .again t (.error e) ∧ t.rtyState = .write ∧ t.errCnt = s.errCnt + 1 ∧
        t.nakCnt = s.nakCnt ∧ t.fErrExh = s.fErrExh ∧ t.fNakExh = s.fNakExh ∧ t.ebdAck = s.ebdAck) ∧
    (∀ e, (decodeReply ack rx s).2 = .error e → maxErr s.params = s.errCnt.toNat + 1 →
      ∃ t, decodePhase ack rx s = .ended t (.failed (.exhausted (.error e))) ∧ t.rtyState = .idle ∧
        t.errCnt = s.errCnt + 1 ∧ t.nakCnt = s.nakCnt ∧ t.fErrExh = true ∧ t.fNakExh = s.fNakExh ∧
        t.sesState = s.sesState ∧ t.portOpen = s.portOpen) ∧
    (∀ r, (decodeReply ack rx s).2 = .ok r → nakBusy s.params r = true → s.nakCnt.toNat + 1 < maxNak s.params →
      ∃ t, decodePhase ack rx s = .again t .nakBusy ∧ t.rtyState = .write ∧ t.nakCnt = s.nakCnt + 1 ∧
        t.errCnt = s.errCnt ∧ t.fErrExh = s.fErrExh ∧ t.fNakExh = s.fNakExh ∧ t.ebdAck = s.ebdAck) ∧
    (∀ r, (decodeReply ack rx s).2 = .ok r → nakBusy s.params r = true → maxNak s.params = s.nakCnt.toNat + 1 →
      ∃ t, decodePhase ack rx s = .ended t (.failed (.exhausted .nakBusy)) ∧ t.rtyState = .idle ∧
        t.nakCnt = s.nakCnt + 1 ∧ t.errCnt = s.errCnt ∧ t.fNakExh = true ∧ t.fErrExh = s.fErrExh ∧
        t.sesState = s.sesState ∧ t.portOpen = s.portOpen) ∧
    ∀ r, (decodeReply ack rx s).2 = .ok r → nakBusy s.params r = false →
      ∃ t, decodePhase ack rx s = .ended t (.answer r) ∧ t.rtyState = .idle ∧ t.nakCnt = s.nakCnt ∧
        t.errCnt = s.errCnt ∧ t.fErrExh = s.fErrExh ∧ t.fNakExh = s.fNakExh

/-- A command that is always answered NAK/BUSY is transmitted exactly MAX_NAK times, one always answered by bytes that fail
to decode exactly MAX_ERR times; then the exchange ends with Exhausted, the flag of its bound set and the session as it was.
Both bounds are 3 for cctalk and CCNET, and those of the parameters for the other families (42_exchange_retry.md R235, R236,
R252; 00_scope.md R9). -/
def Obligations.AlwaysRefusedSendsBound : Prop :=
  (∀ p : Params,
    (p.proto = .cctalk ∨ p.proto = .ccnet → maxNak p = 3 ∧ maxErr p = 3) ∧
    (p.proto = .ebds ∨ p.proto = .wdg ∨ p.proto = .at → maxNak p = p.otherMaxNak ∧ maxErr p = p.otherMaxErr)) ∧
  ∀ (s : State) (cmd payload f rx : Bytes) (ws : List Bool) (rs : List Bytes) (n : Nat),
    s.sesState = .polling → s.portOpen = true → s.serialRx = [] →
    encodeExchange s.params s.ebdAck cmd payload = some f → rx ≠ [] → rx.length ≤ s.params.rxCap →
    s.writeScript = List.replicate n true ++ ws → s.readScript = List.replicate n rx ++ rs →
    ParamsBoundsOk s.params →
    (∀ r, n = maxNak s.params → (decodeReply s.ebdAck rx s).2 = .ok r → nakBusy s.params r = true →
      ∃ t, exec (.sesExchange cmd payload) s = .next t ∧ t.lastErr = 0x05 ∧ t.result = .exhausted .nakBusy ∧
        t.serialTx = s.serialTx ++ (List.replicate n f).flatten ∧ t.nakCnt.toNat = n ∧ t.errCnt = 0 ∧
        t.fNakExh = true ∧ t.fErrExh = false ∧ t.sesState = .polling ∧ t.portOpen = true ∧ t.devAvail = s.devAvail) ∧
    ∀ e, n = maxErr s.params → (decodeReply s.ebdAck rx s).2 = .error e →
      ∃ t, exec (.sesExchange cmd payload) s = .next t ∧ t.lastErr = 0x05 ∧ t.result = .exhausted (.error e) ∧
        t.serialTx = s.serialTx ++ (List.replicate n f).flatten ∧ t.errCnt.toNat = n ∧ t.nakCnt = 0 ∧
        t.fNakExh = false ∧ t.fErrExh = true ∧ t.sesState = .polling ∧ t.portOpen = true ∧ t.devAvail = s.devAvail

/-- Whatever the port answers, an exchange sends the same frame at most MAX_NAK + MAX_ERR - 1 times (a failed write counted,
of which a part reached the line), and at least the smaller bound times when it ends with Exhausted; then exactly one of the
two flags is set, its counter at its bound and the other below (42_exchange_retry.md R237, R238; 70_reset_and_hazards.md
R458). -/
def Obligations.ExchangeTransmissionBound : Prop :=
  ∀ (s t : State) (cmd payload f : Bytes), ParamsBoundsOk s.params →
    s.sesState = .polling → s.portOpen = true → encodeExchange s.params s.ebdAck cmd payload = some f →
    exec (.sesExchange cmd payload) s = .next t →
    ∃ (k : Nat) (part : Bytes), t.serialTx = s.serialTx ++ (List.replicate k f).flatten ++ part ∧ part <+: f ∧
      (t.lastErr ≠ 0x07 → part = [] ∧ 1 ≤ k ∧ k ≤ maxNak s.params + maxErr s.params - 1) ∧
      (t.lastErr = 0x07 → k + 1 ≤ maxNak s.params + maxErr s.params - 1) ∧
      (t.lastErr = 0x05 → min (maxNak s.params) (maxErr s.params) ≤ k ∧
        ((t.fNakExh = true ∧ t.fErrExh = false ∧ t.nakCnt.toNat = maxNak s.params ∧
            t.errCnt.toNat < maxErr s.params) ∨
          (t.fNakExh = false ∧ t.fErrExh = true ∧ t.errCnt.toNat = maxErr s.params ∧
            t.nakCnt.toNat < maxNak s.params))) ∧
      (t.lastErr ≠ 0x05 → t.fNakExh = false ∧ t.fErrExh = false)

/-- `ebd_ack` is complemented once per exchange that sent something, on an EBDS instance, whatever the outcome; not when the
operands were refused and not when the operation was (10_state.md R27; 42_exchange_retry.md R238). FRM.EBD.ENC and
FRM.EBD.DEC leave it as it is (41_framers.md R161, R190). -/
def Obligations.AlternatingBitPerExchange : Prop :=
  (∀ (s t : State) (cmd : Byte) (payload : Bytes), exec (.frmEbdEnc cmd payload) s = .next t → t.ebdAck = s.ebdAck) ∧
  (∀ (s t : State) (expect : Bool), exec (.frmEbdDec expect) s = .next t → t.ebdAck = s.ebdAck) ∧
  ∀ (s t : State) (cmd payload : Bytes), ParamsBoundsOk s.params → exec (.sesExchange cmd payload) s = .next t →
    t.ebdAck =
      (if s.params.proto = .ebds ∧ (s.sesState = .polling ∨ s.sesState = .probing) ∧ s.portOpen = true ∧
          encodeExchange s.params s.ebdAck cmd payload ≠ none then !s.ebdAck else s.ebdAck) ∧
    t.rtyState = (if (s.sesState = .polling ∨ s.sesState = .probing) ∧ s.portOpen = true ∧
          encodeExchange s.params s.ebdAck cmd payload ≠ none then .idle else s.rtyState)

/-- What SES.EXCHANGE leaves alone, whatever happens in it: the checksum registers, the limits, the stop and database-error
flags, the last escrow time, EVQ and the parameters; and, unless it ends in PortError, the session and every escrow register
(42_exchange_retry.md R230, R236, R239; 43_escrow.md R303). A refused or oversized one leaves all but `last_err`
(60_exceptions.md R406, R407). Where the exchange is legal and no frame can be encoded, it is that SizeError; so it is for any
payload on a watchdog or AT instance, and, by the model's choice (log 12), for a command that is not one byte on a binary
family. -/
def Obligations.ExchangeFrame : Prop :=
  (∀ (s : State) (cmd payload : Bytes), (s.sesState = .polling ∨ s.sesState = .probing) → s.portOpen = true →
    encodeExchange s.params s.ebdAck cmd payload = none →
    ∃ r, exec (.sesExchange cmd payload) s = .next { s with lastErr := 0x09, result := r }) ∧
  (∀ (p : Params) (ack : Bool) (cmd payload : Bytes),
    ((p.proto = .wdg ∨ p.proto = .at) ∧ payload ≠ [] → encodeExchange p ack cmd payload = none) ∧
    (p.proto ≠ .at ∧ cmd.length ≠ 1 → encodeExchange p ack cmd payload = none)) ∧
  ∀ (s t : State) (cmd payload : Bytes), exec (.sesExchange cmd payload) s = .next t →
    t.acc8 = s.acc8 ∧ t.crc = s.crc ∧ t.accx = s.accx ∧ t.stopPoll = s.stopPoll ∧ t.maxSum = s.maxSum ∧
    t.rejectAboveMax = s.rejectAboveMax ∧ t.hasDbError = s.hasDbError ∧ t.lastEscTime = s.lastEscTime ∧
    t.evq = s.evq ∧ t.params = s.params ∧ t.pending = s.pending ∧ t.openScript = s.openScript ∧
    (s.params.proto ≠ .ebds → t.fExt = s.fExt) ∧ (s.params.proto ≠ .ccnet → t.fResync = s.fResync) ∧
    (t.lastErr ≠ 0x07 →
      t.sesState = s.sesState ∧ t.portOpen = s.portOpen ∧ t.devAvail = s.devAvail ∧ t.accSum = s.accSum ∧
      t.fSumOvf = s.fSumOvf ∧ t.escPrev = s.escPrev ∧ t.escrowed = s.escrowed ∧ t.lastCmd = s.lastCmd ∧
      t.pendAcc = s.pendAcc) ∧
    (t.lastErr = 0x09 ∨ t.lastErr = 0x0A → t = { s with lastErr := t.lastErr, result := t.result })

/-- SES.CYCLE is the three operations it names: refused outside Polling; with the stop flag set it does nothing and says so;
else SES.EXCHANGE of the poll command, ESC.POLL of the interpreted reply, SES.EXCHANGE of the command decided, whose reply is
not interpreted; an exchange that fails with Exhausted, Timeout or PortError ends it with that status and what was done so
far, with (done, repoll) = (0, 0) for the poll and (0, 1) for the command (43_escrow.md R300, R303). -/
def Obligations.CycleIsPollDecideCommand : Prop :=
  (∀ (s : State) (now : Word), s.sesState ≠ .polling →
    ∃ r, exec (.sesCycle now) s = .next { s with lastErr := 0x0A, result := r }) ∧
  (∀ (s : State) (now : Word), s.sesState = .polling → s.stopPoll = true →
    exec (.sesCycle now) s = .next { s with lastErr := 0x00, result := .cycle true false }) ∧
  ∀ (s a : State) (now : Word), s.sesState = .polling → s.stopPoll = false →
    exec (.sesExchange s.params.cmdPoll []) s = .next a →
    (a.lastErr = 0x05 ∨ a.lastErr = 0x06 ∨ a.lastErr = 0x07 → ∃ r, exec (.sesCycle now) s = .next { a with result := r } ∧
      (a.lastErr = 0x06 → r = .cycle false false) ∧
      ∀ last, a.lastErr = 0x05 → a.result = .exhausted last → r = .cycleExhausted last false false) ∧
    ∀ (reply : Reply) (b : State) (cmd : EscCmd) (repoll : Bool), a.lastErr = 0x00 → a.result = .reply reply →
      exec (.escPoll (interpret s.params reply) now) a = .next b → b.result = .decision cmd repoll →
      (cmd = .none → exec (.sesCycle now) s = .next { b with result := .cycle false repoll }) ∧
      ∀ (code : Bytes) (d : State), (cmd = .stack ∧ code = s.params.cmdStack ∨ cmd = .ret ∧ code = s.params.cmdReturn) →
        exec (.sesExchange code []) b = .next d →
        (d.lastErr = 0x00 → exec (.sesCycle now) s = .next { d with result := .cycle false repoll }) ∧
        (d.lastErr = 0x05 ∨ d.lastErr = 0x06 ∨ d.lastErr = 0x07 → ∃ r, exec (.sesCycle now) s = .next { d with result := r } ∧
          (d.lastErr = 0x06 → r = .cycle false true) ∧
          ∀ last, d.lastErr = 0x05 → d.result = .exhausted last → r = .cycleExhausted last false true)

/-- A whole cycle that accepts a bill: the poll is answered with Escrow(d), Stack is decided and sent, its reply is not
interpreted, the sum is raised (43_escrow.md R281, R300; log 6). -/
def Obligations.CycleStacksBill : Prop :=
  ∀ (s : State) (now d : Word) (f g arr arr2 : Bytes) (ws : List Bool) (rs : List Bytes) (r r2 : Reply),
    let ack2 := if s.params.proto = .ebds then !s.ebdAck else s.ebdAck
    s.sesState = .polling → s.portOpen = true → s.stopPoll = false → s.serialRx = [] →
    s.writeScript = true :: true :: ws → s.readScript = arr :: arr2 :: rs →
    arr ≠ [] → arr.length ≤ s.params.rxCap → arr2 ≠ [] → arr2.length ≤ s.params.rxCap →
    encodeExchange s.params s.ebdAck s.params.cmdPoll [] = some f →
    encodeExchange s.params ack2 s.params.cmdStack [] = some g →
    (decodeReply s.ebdAck arr s).2 = .ok r → nakBusy s.params r = false →
    (decodeReply ack2 arr2 s).2 = .ok r2 → nakBusy s.params r2 = false →
    interpret s.params r = .escrow d → escrowArm s d now = .accept →
    ∃ t, exec (.sesCycle now) s = .next t ∧ t.lastErr = 0x00 ∧ t.result = .cycle false true ∧
      t.serialTx = s.serialTx ++ f ++ g ∧ t.serialRx = [] ∧ t.accSum = s.accSum + d ∧ t.pendAcc = true ∧
      t.escrowed = true ∧ t.lastEscTime = now ∧ t.lastCmd = .stack ∧ t.escPrev = some (.escrow d) ∧
      t.evq = s.evq ++ (if s.escPrev = some (.escrow d) then [] else [.statusChanged 2 d]) ∧
      t.ebdAck = s.ebdAck ∧ t.sesState = .polling ∧ t.portOpen = true ∧ t.stopPoll = false ∧
      t.trace = s.trace ++ [(.tx, f), (.rx, arr), (.tx, g), (.rx, arr2)]

/-! ## ESC -/

/-- ESC.CFG and ESC.DBERR (43_escrow.md R273, R275). -/
def Obligations.EscConfiguration : Prop :=
  ∀ s : State,
    (∀ (m : Word) (rej : Bool),
      ∃ r, exec (.escCfg m rej) s = .next { s with maxSum := m, rejectAboveMax := rej, lastErr := 0x00, result := r }) ∧
    ∀ flag : Bool, ∃ r, exec (.escDberr flag) s = .next { s with hasDbError := flag, lastErr := 0x00, result := r }

/-- ESC.POLL at Escrow(d), whole: unrecognized, database error, duplicate, max sum, stack, in that order of precedence; what
each arm commands, emits and writes (43_escrow.md R278 to R286, R289). -/
def Obligations.EscrowDecision : Prop :=
  ∀ (s : State) (d now : Word), s.sesState = .polling →
    let change := if s.escPrev = some (.escrow d) then [] else [Event.statusChanged 2 d]
    let s' := { s with escPrev := some (.escrow d), lastEscTime := now, escrowed := true, lastErr := 0x00 }
    let dt := (2 ^ 32 + now.toNat - s.lastEscTime.toNat) % 2 ^ 32
    exec (.escPoll (.escrow d) now) s = .next
      (if d = 0 then
        { s' with evq := s.evq ++ change, lastCmd := .ret, result := .decision .ret true }
      else if s.hasDbError = true then
        { s' with
          evq := s.evq ++ change ++ [.statusChanged 0x80 d], lastCmd := .ret, result := .decision .ret true }
      else if s.escrowed = true ∧ dt < s.params.dupWindowMs then
        { s' with
          evq := s.evq ++ change ++ [.nominalDuplicate d], lastCmd := s.lastCmd
          result := .decision s.lastCmd (decide (s.lastCmd ≠ .none)) }
      else if s.rejectAboveMax = true ∧ s.maxSum.toNat < s.accSum.toNat + d.toNat then
        { s' with evq := s.evq ++ change, lastCmd := .ret, result := .decision .ret true }
      else
        { s' with
          evq := s.evq ++ change, lastCmd := .stack, result := .decision .stack true
          accSum := BitVec.ofNat 32 ((s.accSum.toNat + d.toNat) % 2 ^ 32), pendAcc := true
          fSumOvf := s.fSumOvf || decide (2 ^ 32 ≤ s.accSum.toNat + d.toNat) })

/-- ESC.POLL at Stacked(d): a pending acceptance is cleared, and emits NominalAccepted(d) unless d is 0; without one no
Nominal event is emitted (43_escrow.md R287, R289). -/
def Obligations.StackedCreditsOnce : Prop :=
  ∀ (s : State) (d now : Word), s.sesState = .polling →
    exec (.escPoll (.stacked d) now) s = .next { s with
      escPrev := some (.stacked d), pendAcc := false, lastErr := 0x00, result := .decision .none false
      evq := s.evq ++ (if s.escPrev = some (.stacked d) then [] else [.statusChanged 4 d]) ++
        (if s.pendAcc = true ∧ d ≠ 0 then [.nominalAccepted d] else []) }

/-- ESC.POLL at every other state: Returned clears `pend_acc`, Idling clears it and `escrowed`, all others change nothing of
the escrow registers; each records the state and emits StatusChanged on a change (43_escrow.md R288, R289, R290). -/
def Obligations.OtherPollStates : Prop :=
  ∀ (s : State) (st : PollState) (now : Word), s.sesState = .polling → (∀ d, st ≠ .escrow d) → (∀ d, st ≠ .stacked d) →
    exec (.escPoll st now) s = .next { s with
      escPrev := some st, lastErr := 0x00, result := .decision .none false
      pendAcc := if st = .returned ∨ st = .idling then false else s.pendAcc
      escrowed := if st = .idling then false else s.escrowed
      evq := s.evq ++ (if s.escPrev = some st then [] else [.statusChanged st.tag st.arg]) }

/-- Money safety: with `reject_above_max` set, a sum within the maximum stays within it through every operation but ESC.CFG,
which may lower the maximum (43_escrow.md R286, R292 (a); 70_reset_and_hazards.md R456). -/
def Obligations.SumStaysWithinMaximum : Prop :=
  ∀ (i : Instr) (s t : State), (∀ m rej, i ≠ .escCfg m rej) → MoneySafe s → exec i s = .next t → MoneySafe t

/-- Over any sequence of ESC.POLL from cleared escrow registers: `acc_sum` is the sum of the denominations of the escrow
events answered Stack that were no duplicates, modulo 2^32 with `f_sum_ovf` telling a carry, and there are at most as many
NominalAccepted events as such escrow events (43_escrow.md R286, R292 (b), (c)). -/
def Obligations.PollsAccountForMoney : Prop :=
  ∀ (s : State) (polls : List (PollState × Word)), s.sesState = .polling → EscCleared s →
    ∃ t, runInstrs (polls.map fun q => .escPoll q.1 q.2) s = .next t ∧
      let taken := (pollRun polls s).2
      t.accSum = BitVec.ofNat 32 (taken.map BitVec.toNat).sum ∧
      t.fSumOvf = decide (2 ^ 32 ≤ (taken.map BitVec.toNat).sum) ∧
      (acceptedValues t.evq).length ≤ (acceptedValues s.evq).length + taken.length

/-! ## The whole machine -/

/-- The invariant holds right after power-on. It rests on the reset values of 70_reset_and_hazards.md R421. -/
def Obligations.InvariantAtPowerOn : Prop :=
  Inv State.reset

/-- Every step keeps the invariant: buffers in canonical form and within their capacity, no Probing and no half exchange
between operations, the port open exactly while polling, retry counters within their bounds, at most one exhaustion flag,
escrow registers cleared outside Polling, `last_err` a status code, only defined events in EVQ. -/
def Obligations.StepKeepsInvariant : Prop :=
  ∀ s t : State, Inv s → step s = .next t → Inv t

/-- Under the invariant no step faults: no byte that holds no value is ever read (00_scope.md R12; 20_memory.md R60). A
step can only refuse a malformed request (log 2). -/
def Obligations.NoFaultUnderInvariant : Prop :=
  ∀ s : State, Inv s → (∃ t, step s = .next t) ∨ ∃ e, step s = .refused (.malformedRequest e)

/-- Every operation ends with one of the statuses the table of 60_exceptions.md R382 gives it, where TXBUF holds a watchdog
frame (log 26). A cycle whose poll command fits no frame ends with ILLEGAL and nothing else changes, since the table gives
SES.CYCLE no SizeError: the model's inference (log 16). -/
def Obligations.StatusesOfEachOperation : Prop :=
  (∀ (i : Instr) (s t : State), isWire i = false → 4 ≤ s.params.txCap → exec i s = .next t →
    ∃ st ∈ allowedStatus i, t.lastErr = st.code) ∧
  ∀ (s : State) (now : Word), s.sesState = .polling → s.stopPoll = false → s.portOpen = true →
    encodeExchange s.params s.ebdAck s.params.cmdPoll [] = none →
    ∃ r, exec (.sesCycle now) s = .next { s with lastErr := 0x0A, result := r }

/-- Outside Polling the block sends nothing unless it is told to probe, and traces nothing at all; a closed port is opened
by SES.PROBE and SES.START only (70_reset_and_hazards.md R432; 60_exceptions.md R409; 20_memory.md R79; 42_exchange_retry.md
R221). -/
def Obligations.SilentOutsidePolling : Prop :=
  ∀ (i : Instr) (s t : State), exec i s = .next t →
    (s.sesState = .closed ∨ s.sesState = .identified → i ≠ .sesProbe → t.serialTx = s.serialTx) ∧
    (s.sesState ≠ .polling → t.trace = s.trace) ∧
    (s.portOpen = false → i ≠ .sesProbe → i ≠ .sesStart → t.portOpen = false)

/-- Events only join the tail of EVQ, by ESC.POLL and SES.CYCLE alone, and only SYS.RESET empties it; no operation and no
step changes a parameter (10_state.md R50; 60_exceptions.md R391; 20_memory.md R77). -/
def Obligations.EventsAppendAndParametersStay : Prop :=
  (∀ (i : Instr) (s t : State), exec i s = .next t → i ≠ .sysReset →
    ∃ es, t.evq = s.evq ++ es ∧ (es ≠ [] → (∃ st now, i = .escPoll st now) ∨ ∃ now, i = .sesCycle now)) ∧
  ∀ s t : State, step s = .next t → t.params = s.params

/-- A frame on the line changes nothing but the RX stream of an open port, where its bytes wait, first byte first
(30_encoding.md R90 to R103; 20_memory.md R63, R67; 60_exceptions.md R393; that a WIRE row means this is log 10). -/
def Obligations.WireFramesJoinTheStream : Prop :=
  ∀ (s : State) (dest src cmd ctl : Byte) (bs : Bytes) (term : Bool),
    let arrive := fun frame => { s with serialRx := if s.portOpen then s.serialRx ++ frame else s.serialRx }
    let c := crc16 s.params.crcInit s.params.crcXorOut ([0x02, dest, BitVec.ofNat 8 (bs.length + 6), cmd] ++ bs)
    let e := [BitVec.ofNat 8 (bs.length + 5), ctl] ++ bs
    exec (.wireCctalk dest src cmd bs) s = .next (arrive
      ([dest, BitVec.ofNat 8 bs.length, src, cmd] ++ bs ++
        [sum8 ([dest, BitVec.ofNat 8 bs.length, src, cmd] ++ bs)])) ∧
    exec (.wireCcnet dest cmd bs) s = .next (arrive
      ([0x02, dest, BitVec.ofNat 8 (bs.length + 6), cmd] ++ bs ++ [c.setWidth 8, (c >>> 8).setWidth 8])) ∧
    exec (.wireEbds ctl bs) s = .next (arrive
      ([0x02] ++ e ++ [0x03, if s.params.ebdCrcCoversPostfix then xor8 (e ++ [0x03]) else xor8 e])) ∧
    exec (.wireWatchdog cmd) s = .next (arrive [0x4F, 0x53, 0x50, cmd]) ∧
    exec (.wireAt bs term) s = .next (arrive (bs ++ [if term then 0x1A else 0x0D]))
end

