-- ==== Sys2Proof/Laws/Checksum.lean ====
section
/-! SUPPORT. Facts about the three check functions that the framers' proofs use (40_checksum.md R132, R145, R152). -/

namespace Sys2Proof.Machine

/-! ### SUM8 -/

theorem sum8_fold (bs : Bytes) (a : Byte) : bs.foldl sum8Step a = a + bs.sum := by
  induction bs generalizing a with
  | nil => simp
  | cons b bs ih => simp [ih, sum8Step, BitVec.add_assoc]

theorem sum8_eq (bs : Bytes) : sum8 bs = 0 - bs.sum := by simp [sum8, negate8, sum8_fold]

/-- The check identity (40_checksum.md R132). -/
theorem sum8_append_check (bs : Bytes) : (bs ++ [sum8 bs]).sum = 0 := by
  simp [sum8_eq]

theorem sum8_cons_append (xs ys : Bytes) (b c : Byte) (h : sum8 (xs ++ b :: ys) = sum8 (xs ++ c :: ys)) : b = c := by
  simp only [sum8_eq, List.sum_append, List.sum_cons] at h
  simpa using h

/-! ### XOR8 -/

theorem xor8_fold (bs : Bytes) (a : Byte) : bs.foldl xor8Step a = a ^^^ xor8 bs := by
  unfold xor8
  induction bs generalizing a with
  | nil => simp
  | cons b bs ih =>
    simp only [List.foldl_cons]
    rw [ih, ih (xor8Step 0 b)]
    simp [xor8Step, BitVec.xor_assoc]

@[simp] theorem xor8_nil : xor8 [] = 0 := rfl

theorem xor8_cons (b : Byte) (bs : Bytes) : xor8 (b :: bs) = b ^^^ xor8 bs := by
  show List.foldl xor8Step (xor8Step 0 b) bs = _
  rw [xor8_fold]
  simp [xor8Step]

theorem xor8_append (xs ys : Bytes) : xor8 (xs ++ ys) = xor8 xs ^^^ xor8 ys := by
  induction xs with
  | nil => simp
  | cons b xs ih => simp [xor8_cons, ih, BitVec.xor_assoc]

theorem xor8_cons_append (xs ys : Bytes) (b c : Byte) (h : xor8 (xs ++ b :: ys) = xor8 (xs ++ c :: ys)) : b = c := by
  simp only [xor8_append, xor8_cons] at h
  have h2 := (BitVec.xor_right_inj _).1 h
  rw [BitVec.xor_comm b, BitVec.xor_comm c] at h2
  exact (BitVec.xor_right_inj _).1 h2

/-! ### CRC16 -/

theorem crcShift_injective {a b : Half} (h : crcShift a = crcShift b) : a = b := by
  unfold crcShift crcPoly at h
  by_cases ha : a.getLsbD 0 = true <;> by_cases hb : b.getLsbD 0 = true
  all_goals
    simp only [ha, hb, if_true, if_false, Bool.false_eq_true] at h
    apply BitVec.eq_of_getLsbD_eq
    intro i hi
    by_cases h0 : i = 0
    · subst h0
      first
        | rw [ha, hb]
        | (simp only [Bool.not_eq_true] at ha hb
           rw [ha, hb]
           done)
        | (exfalso
           have h15 := congrArg (fun x => BitVec.getLsbD x 15) h
           simp at h15)
    · have hj := congrArg (fun x => BitVec.getLsbD x (i - 1)) h
      simp only [BitVec.getLsbD_xor, BitVec.getLsbD_ushiftRight, show 1 + (i - 1) = i by omega] at hj
      first
        | simpa using hj
        | (exfalso
           have h15 := congrArg (fun x => BitVec.getLsbD x 15) h
           simp at h15)

theorem crcShifts_injective (n : Nat) {a b : Half} (h : crcShifts n a = crcShifts n b) : a = b := by
  induction n generalizing a b with
  | zero => exact h
  | succ n ih => exact crcShift_injective (ih h)

/-- Different registers stay different through the same byte. -/
theorem crc16Step_injective {a b : Half} (x : Byte) (h : crc16Step a x = crc16Step b x) : a = b := by
  have := crcShifts_injective 8 h
  rw [BitVec.xor_comm a, BitVec.xor_comm b] at this
  exact (BitVec.xor_right_inj _).1 this

/-- Different bytes make different registers. -/
theorem crc16Step_byte_injective (a : Half) {x y : Byte} (h : crc16Step a x = crc16Step a y) : x = y := by
  have h1 := (BitVec.xor_right_inj _).1 (crcShifts_injective 8 h)
  have h2 := congrArg (BitVec.setWidth 8) h1
  simpa using h2

theorem crc16_fold_injective (bs : Bytes) {a b : Half} (h : bs.foldl crc16Step a = bs.foldl crc16Step b) : a = b := by
  induction bs generalizing a b with
  | nil => exact h
  | cons x bs ih => exact crc16Step_injective x (ih h)

theorem crc16_cons_append (init xo : Half) (xs ys : Bytes) (b c : Byte)
    (h : crc16 init xo (xs ++ b :: ys) = crc16 init xo (xs ++ c :: ys)) : b = c := by
  unfold crc16 at h
  rw [BitVec.xor_comm _ xo, BitVec.xor_comm _ xo] at h
  have h1 := (BitVec.xor_right_inj _).1 h
  simp only [List.foldl_append, List.foldl_cons] at h1
  exact crc16Step_byte_injective _ (crc16_fold_injective ys h1)

/-! ### Single-bit sensitivity -/

theorem flipBit_ne (b : Byte) (k : Fin 8) : flipBit b k ≠ b := by
  intro h
  have hz : (1#8 <<< k.val) = 0 := by
    have : b ^^^ 1#8 <<< k.val = b ^^^ 0 := by simpa [flipBit] using h
    exact (BitVec.xor_right_inj _).1 this
  exact (by decide : ∀ k : Fin 8, (1#8 <<< k.val) ≠ 0) k hz

/-- Changing a bit of a byte adds or subtracts its weight. -/
theorem flipBit_moves (b : Byte) (k : Fin 8) :
    flipBit b k = b + 1#8 <<< k.val ∨ flipBit b k = b - 1#8 <<< k.val := by
  revert b k
  decide +kernel

/-- A check function that tells two sequences apart by one byte sees every bit. -/
theorem seesEveryBit_of {α : Type} {check : Bytes → α}
    (h : ∀ xs ys b c, check (xs ++ b :: ys) = check (xs ++ c :: ys) → b = c) : SeesEveryBit check :=
  fun xs ys b k e => flipBit_ne b k (h xs ys _ _ e)

/-- The single-bit sensitivity of the three check functions (40_checksum.md R152). -/
theorem singleBitSensitivity : SingleBitSensitivity where
  sum8 := seesEveryBit_of sum8_cons_append
  sum8_moves xs ys b k := by
    simp only [sum8_eq, List.sum_append, List.sum_cons]
    rcases flipBit_moves b k with h | h <;> rw [h]
    · exact Or.inr (by ring)
    · exact Or.inl (by ring)
  xor8 := seesEveryBit_of xor8_cons_append
  xor8_flips xs ys b k := by
    simp only [xor8_append, xor8_cons, flipBit, BitVec.xor_assoc]
    rw [BitVec.xor_comm (1#8 <<< k.val)]
  crc16 init xorOut := seesEveryBit_of (crc16_cons_append init xorOut)

/-! ### The two bytes of a CRC -/

@[simp] theorem ofLoHi_split (c : Half) : ofLoHi (loByte c) (hiByte c) = c := by
  unfold ofLoHi loByte hiByte
  apply BitVec.eq_of_getLsbD_eq
  intro i hi
  simp only [BitVec.getLsbD_or, BitVec.getLsbD_setWidth, BitVec.getLsbD_shiftLeft, BitVec.getLsbD_ushiftRight]
  by_cases h : i < 8
  · simp [h, hi]
  · simp [h, hi, show i - 8 < 8 by omega, show 8 + (i - 8) = i by omega, show i - 8 < 16 by omega]

@[simp] theorem loByte_ofLoHi (lo hi : Byte) : loByte (ofLoHi lo hi) = lo := by
  unfold ofLoHi loByte
  apply BitVec.eq_of_getLsbD_eq
  intro i h
  simp [h]

@[simp] theorem hiByte_ofLoHi (lo hi : Byte) : hiByte (ofLoHi lo hi) = hi := by
  unfold ofLoHi hiByte
  apply BitVec.eq_of_getLsbD_eq
  intro i h
  simp [h, show 8 + i < 16 by omega]

end Sys2Proof.Machine
end

