-- ==== Sys2Proof/Laws/Decode.lean ====
section
/-! SUPPORT. Packing of operands: taking an operand from its packing gives it back, and what is taken was packed
(notes/assumptions/1.md). -/

namespace Sys2Proof

namespace Decode

@[simp] theorem takeByte_cons (b : Byte) (r : Bytes) : takeByte (b :: r) = .ok (b, r) := rfl

@[simp] theorem takeBit_packBit (b : Bool) (r : Bytes) : takeBit (packBit b ++ r) = .ok (b, r) := by
  cases b <;> rfl

@[simp] theorem takeBitOrZero_packBit (b : Bool) (r : Bytes) : takeBitOrZero (packBit b ++ r) = .ok (b, r) := by
  cases b <;> rfl

@[simp] theorem takeWord_packWord (w : Word) (r : Bytes) : takeWord (packWord w ++ r) = .ok (w, r) := by
  simp only [packWord, takeWord, List.cons_append, List.nil_append, Except.ok.injEq, Prod.mk.injEq, and_true]
  apply BitVec.eq_of_getLsbD_eq
  intro i hi
  simp only [BitVec.getLsbD_append, BitVec.getLsbD_setWidth, BitVec.getLsbD_ushiftRight]
  by_cases h1 : i < 8
  · simp [h1]
  · by_cases h2 : i - 8 < 8
    · simp [h1, h2, show 8 + (i - 8) = i by omega]
    · by_cases h3 : i - 8 - 8 < 8
      · simp [h1, h2, h3, show 16 + (i - 8 - 8) = i by omega]
      · simp only [h1, h2, h3, decide_false, Bool.false_and,
          show 24 + (i - 8 - 8 - 8) = i by omega]
        simp
        intro
        omega

theorem splitExact_append (bs r : Bytes) : splitExact bs.length (bs ++ r) = .ok (bs, r) := by
  induction bs with
  | nil => rfl
  | cons b bs ih => simp [splitExact, ih]

theorem splitExact_ok {n : Nat} {bs xs r : Bytes} (h : splitExact n bs = .ok (xs, r)) :
    bs = xs ++ r ∧ xs.length = n := by
  induction n generalizing bs xs with
  | zero => simp [splitExact] at h; obtain ⟨rfl, rfl⟩ := h; simp
  | succ n ih =>
    cases bs with
    | nil => simp [splitExact] at h
    | cons b bs =>
      simp only [splitExact] at h
      split at h
      · rename_i ys rest hs
        cases h
        obtain ⟨rfl, rfl⟩ := ih hs
        simp
      · cases h

@[simp] theorem takeSeq_packSeq (bs r : Bytes) (h : bs.length ≤ maxSeq) :
    takeSeq (packSeq bs ++ r) = .ok (bs, r) := by
  have hl : (BitVec.ofNat 8 bs.length).toNat + 256 * (BitVec.ofNat 8 (bs.length / 256)).toNat = bs.length := by
    simp [maxSeq] at h ⊢
    omega
  simp only [packSeq, takeSeq, List.cons_append, hl]
  exact splitExact_append bs r

@[simp] theorem ofTag_tag (st : PollState) : PollState.ofTag st.tag.toNat st.arg = some st := by
  cases st <;> simp [PollState.ofTag, PollState.tag, PollState.arg]

@[simp] theorem takePollState_pack (st : PollState) (r : Bytes) :
    takePollState (packPollState st ++ r) = .ok (st, r) := by
  simp only [packPollState, takePollState, List.cons_append, takeByte_cons]
  simp only [bind, Except.bind, takeWord_packWord, ofTag_tag]

theorem takeBit_ok {bs r : Bytes} {b : Bool} (h : takeBit bs = .ok (b, r)) : bs = packBit b ++ r := by
  cases bs with
  | nil => simp [takeBit] at h
  | cons x bs =>
    simp only [takeBit] at h
    split at h
    · rename_i hx; cases h; simp [packBit, hx]
    · split at h
      · rename_i hx; cases h; simp [packBit, hx]
      · cases h

/-- A defaulted bit is read, or it is 0 and nothing stood there (44_at_decoder.md R332). -/
theorem takeBitOrZero_ok {bs r : Bytes} {b : Bool} (h : takeBitOrZero bs = .ok (b, r)) :
    bs = packBit b ++ r ∨ bs = [] ∧ b = false ∧ r = [] := by
  cases bs with
  | nil => cases h; exact Or.inr ⟨rfl, rfl, rfl⟩
  | cons x bs => exact Or.inl (takeBit_ok h)

theorem takeByte_ok {bs r : Bytes} {b : Byte} (h : takeByte bs = .ok (b, r)) : bs = b :: r := by
  cases bs with
  | nil => simp [takeByte] at h
  | cons x bs => simp only [takeByte, Except.ok.injEq, Prod.mk.injEq] at h; rw [h.1, h.2]

theorem packWord_append (a b c d : Byte) : packWord (d ++ c ++ b ++ a : BitVec 32) = [a, b, c, d] := by
  simp only [packWord, List.cons.injEq, and_true]
  refine ⟨?_, ?_, ?_, ?_⟩ <;>
  · apply BitVec.eq_of_getLsbD_eq
    intro i hi
    simp only [BitVec.getLsbD_append, BitVec.getLsbD_setWidth, BitVec.getLsbD_ushiftRight]
    first
      | (simp [hi]; done)
      | (simp [show ¬ 8 + i < 8 by omega, show 8 + i - 8 = i by omega, hi]; done)
      | (simp [show ¬ 16 + i < 8 by omega, show ¬ 16 + i - 8 < 8 by omega, show 16 + i - 8 - 8 = i by omega, hi]
         done)
      | simp [show ¬ 24 + i < 8 by omega, show ¬ 24 + i - 8 < 8 by omega, show ¬ 24 + i - 8 - 8 < 8 by omega,
          show 24 + i - 8 - 8 - 8 = i by omega, hi]

theorem takeWord_ok {bs r : Bytes} {w : Word} (h : takeWord bs = .ok (w, r)) : bs = packWord w ++ r := by
  match bs with
  | a :: b :: c :: d :: r' =>
    simp only [takeWord, Except.ok.injEq, Prod.mk.injEq] at h
    obtain ⟨rfl, rfl⟩ := h
    rw [packWord_append]
    rfl
  | [] | [_] | [_, _] | [_, _, _] => simp [takeWord] at h

theorem packSeq_of {lo hi : Byte} {xs : Bytes} (h : xs.length = lo.toNat + 256 * hi.toNat) :
    packSeq xs = lo :: hi :: xs := by
  have h1 := lo.isLt
  have h2 := hi.isLt
  simp only [packSeq, h, List.cons.injEq, and_true]
  constructor <;> apply BitVec.eq_of_toNat_eq <;> simp <;> omega

theorem takeSeq_ok {bs r xs : Bytes} (h : takeSeq bs = .ok (xs, r)) :
    bs = packSeq xs ++ r ∧ xs.length ≤ maxSeq := by
  match bs with
  | lo :: hi :: r' =>
    obtain ⟨rfl, hl⟩ := splitExact_ok h
    have h1 := lo.isLt
    have h2 := hi.isLt
    refine ⟨by rw [packSeq_of hl]; rfl, ?_⟩
    rw [hl, maxSeq]
    omega
  | [] | [_] => simp [takeSeq] at h

theorem ofTag_some {tag : Byte} {arg : Word} {st : PollState} (h : PollState.ofTag tag.toNat arg = some st) :
    st.tag = tag ∧ st.arg = arg := by
  have key : ∀ {n : Nat}, PollState.ofTag n arg = some st → st.tag.toNat = n ∧ st.arg = arg := by
    intro n hn
    unfold PollState.ofTag at hn
    split at hn
    all_goals first
      | (cases hn; exact ⟨rfl, rfl⟩)
      | skip
    split at hn
    · cases hn
    · rename_i h0
      simp only [ne_eq, not_not] at h0
      subst h0
      split at hn <;> first | (cases hn; exact ⟨rfl, rfl⟩) | cases hn
  exact ⟨BitVec.eq_of_toNat_eq (key h).1, (key h).2⟩

theorem takePollState_ok {bs r : Bytes} {st : PollState} (h : takePollState bs = .ok (st, r)) :
    bs = packPollState st ++ r := by
  unfold takePollState at h
  cases hb : takeByte bs with
  | error e => rw [hb] at h; cases h
  | ok p =>
    obtain ⟨tag, r1⟩ := p
    rw [hb] at h
    change (takeWord r1 >>= _) = _ at h
    cases hw : takeWord r1 with
    | error e => rw [hw] at h; cases h
    | ok q =>
      obtain ⟨arg, r2⟩ := q
      rw [hw] at h
      change (match PollState.ofTag tag.toNat arg with
        | some st => Except.ok (st, r2) | none => Except.error (DecodeError.badPollState tag)) = _ at h
      split at h
      · rename_i st' hs
        cases h
        obtain ⟨h1, h2⟩ := ofTag_some hs
        rw [takeByte_ok hb, takeWord_ok hw, packPollState, h1, h2]
        rfl
      · cases h

/-- A bind of two parses, taken apart. -/
theorem bind_ok {α β : Type} {x : Except DecodeError α} {f : α → Except DecodeError β} {b : β}
    (h : (x >>= f) = .ok b) : ∃ a, x = .ok a ∧ f a = .ok b := by
  cases x with
  | error e => cases h
  | ok a => exact ⟨a, rfl, h⟩

end Decode

end Sys2Proof
end

