-- ==== Sys2Proof/Laws/Memory.lean ====
section
/-! SUPPORT. Buffers: what a store leaves to be read, and that it keeps the canonical form. -/

namespace Sys2Proof.Machine

theorem Memory.read_cellsFrom (bs : Bytes) (a i : Nat) :
    (Memory.cellsFrom a bs).read (a + i) = bs[i]? := by
  induction bs generalizing a i with
  | nil => simp [Memory.cellsFrom, Memory.read]
  | cons b bs ih =>
    cases i with
    | zero => simp [Memory.cellsFrom, Memory.read]
    | succ i =>
      have h := ih (a + 1) i
      rw [show a + 1 + i = a + (i + 1) by omega] at h
      simpa [Memory.cellsFrom, Memory.read, List.lookup, show (a + (i + 1) == a) = false by simp] using h

/-- Read after store: an index below the length reads the byte stored there, any other holds no value. -/
theorem Memory.read_store (bs : Bytes) (i : Nat) : (Memory.store bs).read i = bs[i]? := by
  simpa [Memory.store] using Memory.read_cellsFrom bs 0 i

theorem Memory.readMany_of_read (m : Memory) (bs : Bytes) (a : Nat)
    (h : ∀ i, i < bs.length → m.read (a + i) = bs[i]?) : m.readMany a bs.length = some bs := by
  induction bs generalizing a with
  | nil => rfl
  | cons b bs ih =>
    have h0 : m.read a = some b := by simpa using h 0 (by simp)
    have ht : m.readMany (a + 1) bs.length = some bs := by
      refine ih (a + 1) fun i hi => ?_
      have := h (i + 1) (by simpa using hi)
      rw [show a + 1 + i = a + (i + 1) by omega]
      simpa using this
    simp [Memory.readMany, h0, ht]

/-- MemRead of a whole buffer after a store gives the bytes stored (00_scope.md R12). -/
@[simp] theorem Memory.readMany_store (bs : Bytes) : (Memory.store bs).readMany 0 bs.length = some bs :=
  Memory.readMany_of_read _ _ _ fun i _ => by simp [Memory.read_store]

theorem Memory.cellsFrom_indices (bs : Bytes) (a : Nat) :
    (Memory.cellsFrom a bs).map Prod.fst = List.range' a bs.length := by
  induction bs generalizing a with
  | nil => rfl
  | cons b bs ih => simp [Memory.cellsFrom, ih, List.range'_succ]

/-- A store lists exactly the indices below the length. -/
@[simp] theorem Memory.store_indices (bs : Bytes) :
    (Memory.store bs).map Prod.fst = List.range bs.length := by
  rw [Memory.store, Memory.cellsFrom_indices, List.range_eq_range']

theorem Memory.cellsFrom_wf (bs : Bytes) (a : Nat) : (Memory.cellsFrom a bs).wf = true := by
  induction bs generalizing a with
  | nil => rfl
  | cons b bs ih =>
    cases bs with
    | nil => rfl
    | cons c bs =>
      have := ih (a + 1)
      simp only [Memory.cellsFrom, Memory.wf, Bool.and_eq_true, decide_eq_true_eq] at this ⊢
      exact ⟨by omega, this⟩

/-- A store keeps the canonical form. -/
@[simp] theorem Memory.store_wf (bs : Bytes) : (Memory.store bs).wf = true := Memory.cellsFrom_wf bs 0

/-- A buffer whose listed indices are those below its length can be read whole. -/
theorem Memory.readMany_of_indices (m : Memory) (n : Nat) (h : m.map Prod.fst = List.range n) :
    ∃ bs, m.readMany 0 n = some bs ∧ bs.length = n := by
  have hlen : m.length = n := by simpa using congrArg List.length h
  suffices H : ∀ (l pre : Memory) (a : Nat), l.map Prod.fst = List.range' a l.length →
      (∀ c ∈ pre, c.1 < a) → ∃ bs, Memory.readMany (pre ++ l) a l.length = some bs ∧ bs.length = l.length by
    have := H m [] 0 (by rw [h, hlen, List.range_eq_range']) (by simp)
    simpa [hlen] using this
  intro l
  induction l with
  | nil => intro pre a _ _; exact ⟨[], rfl, rfl⟩
  | cons c l ih =>
    intro pre a hl hpre
    obtain ⟨k, b⟩ := c
    simp only [List.map_cons, List.length_cons, List.range'_succ, List.cons.injEq] at hl
    obtain ⟨rfl, hl⟩ := hl
    obtain ⟨bs, hbs, hlen'⟩ := ih (pre ++ [(k, b)]) (k + 1) hl (by
      intro c hc
      rcases List.mem_append.1 hc with hc | hc
      · exact Nat.lt_succ_of_lt (hpre c hc)
      · simp at hc; subst hc; exact Nat.lt_succ_self k)
    have hread : Memory.read (pre ++ (k, b) :: l) k = some b := by
      clear ih hbs hl
      induction pre with
      | nil => simp [Memory.read]
      | cons d pre ihp =>
        have hd : (k == d.1) = false := by
          have := hpre d (by simp)
          simp; omega
        have := ihp (fun c hc => hpre c (by simp [hc]))
        obtain ⟨x, y⟩ := d
        simpa [Memory.read, List.lookup, hd] using this
    refine ⟨b :: bs, ?_, by simp [hlen']⟩
    rw [List.append_assoc] at hbs
    simp only [List.singleton_append] at hbs
    simp [Memory.readMany, hread, hbs]

@[simp] theorem putTx_txBytes (s : State) (bs : Bytes) : (s.putTx bs).txBytes = some bs :=
  Memory.readMany_store bs

@[simp] theorem putRx_rxBytes (s : State) (bs : Bytes) : (s.putRx bs).rxBytes = some bs :=
  Memory.readMany_store bs

end Sys2Proof.Machine
end

