-- ==== Sys2Proof/Laws/State.lean ====
section
/-! SUPPORT. One lemma per field and shared update of the state, so that no proof unfolds a record update. -/

namespace Sys2Proof.Machine

@[simp] theorem succeed_eq (s : State) (r : Result) : s.succeed r = s.complete .ok r := rfl
@[simp] theorem raise_eq (s : State) (st : Status) (r : Result) : s.raise st r = s.complete st r := rfl
@[simp] theorem refuse_eq (s : State) : s.refuse = s.complete .illegal .none := rfl

/-! ### putTx -/

@[simp] theorem putTx_acc8 (s : State) (bs : Bytes) : (s.putTx bs).acc8 = s.acc8 := rfl
@[simp] theorem putTx_crc (s : State) (bs : Bytes) : (s.putTx bs).crc = s.crc := rfl
@[simp] theorem putTx_accx (s : State) (bs : Bytes) : (s.putTx bs).accx = s.accx := rfl
@[simp] theorem putTx_txbuf (s : State) (bs : Bytes) : (s.putTx bs).txbuf = Memory.store bs := rfl
@[simp] theorem putTx_txLen (s : State) (bs : Bytes) : (s.putTx bs).txLen = bs.length := rfl
@[simp] theorem putTx_rxbuf (s : State) (bs : Bytes) : (s.putTx bs).rxbuf = s.rxbuf := rfl
@[simp] theorem putTx_rxLen (s : State) (bs : Bytes) : (s.putTx bs).rxLen = s.rxLen := rfl
@[simp] theorem putTx_ebdAck (s : State) (bs : Bytes) : (s.putTx bs).ebdAck = s.ebdAck := rfl
@[simp] theorem putTx_fExt (s : State) (bs : Bytes) : (s.putTx bs).fExt = s.fExt := rfl
@[simp] theorem putTx_fResync (s : State) (bs : Bytes) : (s.putTx bs).fResync = s.fResync := rfl
@[simp] theorem putTx_fNakExh (s : State) (bs : Bytes) : (s.putTx bs).fNakExh = s.fNakExh := rfl
@[simp] theorem putTx_fErrExh (s : State) (bs : Bytes) : (s.putTx bs).fErrExh = s.fErrExh := rfl
@[simp] theorem putTx_lastErr (s : State) (bs : Bytes) : (s.putTx bs).lastErr = s.lastErr := rfl
@[simp] theorem putTx_sesState (s : State) (bs : Bytes) : (s.putTx bs).sesState = s.sesState := rfl
@[simp] theorem putTx_rtyState (s : State) (bs : Bytes) : (s.putTx bs).rtyState = s.rtyState := rfl
@[simp] theorem putTx_nakCnt (s : State) (bs : Bytes) : (s.putTx bs).nakCnt = s.nakCnt := rfl
@[simp] theorem putTx_errCnt (s : State) (bs : Bytes) : (s.putTx bs).errCnt = s.errCnt := rfl
@[simp] theorem putTx_portOpen (s : State) (bs : Bytes) : (s.putTx bs).portOpen = s.portOpen := rfl
@[simp] theorem putTx_devAvail (s : State) (bs : Bytes) : (s.putTx bs).devAvail = s.devAvail := rfl
@[simp] theorem putTx_stopPoll (s : State) (bs : Bytes) : (s.putTx bs).stopPoll = s.stopPoll := rfl
@[simp] theorem putTx_fSumOvf (s : State) (bs : Bytes) : (s.putTx bs).fSumOvf = s.fSumOvf := rfl
@[simp] theorem putTx_maxSum (s : State) (bs : Bytes) : (s.putTx bs).maxSum = s.maxSum := rfl
@[simp] theorem putTx_rejectAboveMax (s : State) (bs : Bytes) : (s.putTx bs).rejectAboveMax = s.rejectAboveMax := rfl
@[simp] theorem putTx_accSum (s : State) (bs : Bytes) : (s.putTx bs).accSum = s.accSum := rfl
@[simp] theorem putTx_hasDbError (s : State) (bs : Bytes) : (s.putTx bs).hasDbError = s.hasDbError := rfl
@[simp] theorem putTx_escPrev (s : State) (bs : Bytes) : (s.putTx bs).escPrev = s.escPrev := rfl
@[simp] theorem putTx_escrowed (s : State) (bs : Bytes) : (s.putTx bs).escrowed = s.escrowed := rfl
@[simp] theorem putTx_lastEscTime (s : State) (bs : Bytes) : (s.putTx bs).lastEscTime = s.lastEscTime := rfl
@[simp] theorem putTx_lastCmd (s : State) (bs : Bytes) : (s.putTx bs).lastCmd = s.lastCmd := rfl
@[simp] theorem putTx_pendAcc (s : State) (bs : Bytes) : (s.putTx bs).pendAcc = s.pendAcc := rfl
@[simp] theorem putTx_evq (s : State) (bs : Bytes) : (s.putTx bs).evq = s.evq := rfl
@[simp] theorem putTx_serialTx (s : State) (bs : Bytes) : (s.putTx bs).serialTx = s.serialTx := rfl
@[simp] theorem putTx_serialRx (s : State) (bs : Bytes) : (s.putTx bs).serialRx = s.serialRx := rfl
@[simp] theorem putTx_params (s : State) (bs : Bytes) : (s.putTx bs).params = s.params := rfl
@[simp] theorem putTx_result (s : State) (bs : Bytes) : (s.putTx bs).result = s.result := rfl
@[simp] theorem putTx_trace (s : State) (bs : Bytes) : (s.putTx bs).trace = s.trace := rfl
@[simp] theorem putTx_pending (s : State) (bs : Bytes) : (s.putTx bs).pending = s.pending := rfl
@[simp] theorem putTx_openScript (s : State) (bs : Bytes) : (s.putTx bs).openScript = s.openScript := rfl
@[simp] theorem putTx_writeScript (s : State) (bs : Bytes) : (s.putTx bs).writeScript = s.writeScript := rfl
@[simp] theorem putTx_readScript (s : State) (bs : Bytes) : (s.putTx bs).readScript = s.readScript := rfl
@[simp] theorem putTx_portCalls (s : State) (bs : Bytes) : (s.putTx bs).portCalls = s.portCalls := rfl

/-! ### putRx -/

@[simp] theorem putRx_acc8 (s : State) (bs : Bytes) : (s.putRx bs).acc8 = s.acc8 := rfl
@[simp] theorem putRx_crc (s : State) (bs : Bytes) : (s.putRx bs).crc = s.crc := rfl
@[simp] theorem putRx_accx (s : State) (bs : Bytes) : (s.putRx bs).accx = s.accx := rfl
@[simp] theorem putRx_txbuf (s : State) (bs : Bytes) : (s.putRx bs).txbuf = s.txbuf := rfl
@[simp] theorem putRx_txLen (s : State) (bs : Bytes) : (s.putRx bs).txLen = s.txLen := rfl
@[simp] theorem putRx_rxbuf (s : State) (bs : Bytes) : (s.putRx bs).rxbuf = Memory.store bs := rfl
@[simp] theorem putRx_rxLen (s : State) (bs : Bytes) : (s.putRx bs).rxLen = bs.length := rfl
@[simp] theorem putRx_ebdAck (s : State) (bs : Bytes) : (s.putRx bs).ebdAck = s.ebdAck := rfl
@[simp] theorem putRx_fExt (s : State) (bs : Bytes) : (s.putRx bs).fExt = s.fExt := rfl
@[simp] theorem putRx_fResync (s : State) (bs : Bytes) : (s.putRx bs).fResync = s.fResync := rfl
@[simp] theorem putRx_fNakExh (s : State) (bs : Bytes) : (s.putRx bs).fNakExh = s.fNakExh := rfl
@[simp] theorem putRx_fErrExh (s : State) (bs : Bytes) : (s.putRx bs).fErrExh = s.fErrExh := rfl
@[simp] theorem putRx_lastErr (s : State) (bs : Bytes) : (s.putRx bs).lastErr = s.lastErr := rfl
@[simp] theorem putRx_sesState (s : State) (bs : Bytes) : (s.putRx bs).sesState = s.sesState := rfl
@[simp] theorem putRx_rtyState (s : State) (bs : Bytes) : (s.putRx bs).rtyState = s.rtyState := rfl
@[simp] theorem putRx_nakCnt (s : State) (bs : Bytes) : (s.putRx bs).nakCnt = s.nakCnt := rfl
@[simp] theorem putRx_errCnt (s : State) (bs : Bytes) : (s.putRx bs).errCnt = s.errCnt := rfl
@[simp] theorem putRx_portOpen (s : State) (bs : Bytes) : (s.putRx bs).portOpen = s.portOpen := rfl
@[simp] theorem putRx_devAvail (s : State) (bs : Bytes) : (s.putRx bs).devAvail = s.devAvail := rfl
@[simp] theorem putRx_stopPoll (s : State) (bs : Bytes) : (s.putRx bs).stopPoll = s.stopPoll := rfl
@[simp] theorem putRx_fSumOvf (s : State) (bs : Bytes) : (s.putRx bs).fSumOvf = s.fSumOvf := rfl
@[simp] theorem putRx_maxSum (s : State) (bs : Bytes) : (s.putRx bs).maxSum = s.maxSum := rfl
@[simp] theorem putRx_rejectAboveMax (s : State) (bs : Bytes) : (s.putRx bs).rejectAboveMax = s.rejectAboveMax := rfl
@[simp] theorem putRx_accSum (s : State) (bs : Bytes) : (s.putRx bs).accSum = s.accSum := rfl
@[simp] theorem putRx_hasDbError (s : State) (bs : Bytes) : (s.putRx bs).hasDbError = s.hasDbError := rfl
@[simp] theorem putRx_escPrev (s : State) (bs : Bytes) : (s.putRx bs).escPrev = s.escPrev := rfl
@[simp] theorem putRx_escrowed (s : State) (bs : Bytes) : (s.putRx bs).escrowed = s.escrowed := rfl
@[simp] theorem putRx_lastEscTime (s : State) (bs : Bytes) : (s.putRx bs).lastEscTime = s.lastEscTime := rfl
@[simp] theorem putRx_lastCmd (s : State) (bs : Bytes) : (s.putRx bs).lastCmd = s.lastCmd := rfl
@[simp] theorem putRx_pendAcc (s : State) (bs : Bytes) : (s.putRx bs).pendAcc = s.pendAcc := rfl
@[simp] theorem putRx_evq (s : State) (bs : Bytes) : (s.putRx bs).evq = s.evq := rfl
@[simp] theorem putRx_serialTx (s : State) (bs : Bytes) : (s.putRx bs).serialTx = s.serialTx := rfl
@[simp] theorem putRx_serialRx (s : State) (bs : Bytes) : (s.putRx bs).serialRx = s.serialRx := rfl
@[simp] theorem putRx_params (s : State) (bs : Bytes) : (s.putRx bs).params = s.params := rfl
@[simp] theorem putRx_result (s : State) (bs : Bytes) : (s.putRx bs).result = s.result := rfl
@[simp] theorem putRx_trace (s : State) (bs : Bytes) : (s.putRx bs).trace = s.trace := rfl
@[simp] theorem putRx_pending (s : State) (bs : Bytes) : (s.putRx bs).pending = s.pending := rfl
@[simp] theorem putRx_openScript (s : State) (bs : Bytes) : (s.putRx bs).openScript = s.openScript := rfl
@[simp] theorem putRx_writeScript (s : State) (bs : Bytes) : (s.putRx bs).writeScript = s.writeScript := rfl
@[simp] theorem putRx_readScript (s : State) (bs : Bytes) : (s.putRx bs).readScript = s.readScript := rfl
@[simp] theorem putRx_portCalls (s : State) (bs : Bytes) : (s.putRx bs).portCalls = s.portCalls := rfl

/-! ### complete -/

@[simp] theorem complete_acc8 (s : State) (st : Status) (r : Result) : (s.complete st r).acc8 = s.acc8 := rfl
@[simp] theorem complete_crc (s : State) (st : Status) (r : Result) : (s.complete st r).crc = s.crc := rfl
@[simp] theorem complete_accx (s : State) (st : Status) (r : Result) : (s.complete st r).accx = s.accx := rfl
@[simp] theorem complete_txbuf (s : State) (st : Status) (r : Result) : (s.complete st r).txbuf = s.txbuf := rfl
@[simp] theorem complete_txLen (s : State) (st : Status) (r : Result) : (s.complete st r).txLen = s.txLen := rfl
@[simp] theorem complete_rxbuf (s : State) (st : Status) (r : Result) : (s.complete st r).rxbuf = s.rxbuf := rfl
@[simp] theorem complete_rxLen (s : State) (st : Status) (r : Result) : (s.complete st r).rxLen = s.rxLen := rfl
@[simp] theorem complete_ebdAck (s : State) (st : Status) (r : Result) : (s.complete st r).ebdAck = s.ebdAck := rfl
@[simp] theorem complete_fExt (s : State) (st : Status) (r : Result) : (s.complete st r).fExt = s.fExt := rfl
@[simp] theorem complete_fResync (s : State) (st : Status) (r : Result) : (s.complete st r).fResync = s.fResync := rfl
@[simp] theorem complete_fNakExh (s : State) (st : Status) (r : Result) : (s.complete st r).fNakExh = s.fNakExh := rfl
@[simp] theorem complete_fErrExh (s : State) (st : Status) (r : Result) : (s.complete st r).fErrExh = s.fErrExh := rfl
@[simp] theorem complete_lastErr (s : State) (st : Status) (r : Result) : (s.complete st r).lastErr = st.code := rfl
@[simp] theorem complete_sesState (s : State) (st : Status) (r : Result) : (s.complete st r).sesState = s.sesState := rfl
@[simp] theorem complete_rtyState (s : State) (st : Status) (r : Result) : (s.complete st r).rtyState = s.rtyState := rfl
@[simp] theorem complete_nakCnt (s : State) (st : Status) (r : Result) : (s.complete st r).nakCnt = s.nakCnt := rfl
@[simp] theorem complete_errCnt (s : State) (st : Status) (r : Result) : (s.complete st r).errCnt = s.errCnt := rfl
@[simp] theorem complete_portOpen (s : State) (st : Status) (r : Result) : (s.complete st r).portOpen = s.portOpen := rfl
@[simp] theorem complete_devAvail (s : State) (st : Status) (r : Result) : (s.complete st r).devAvail = s.devAvail := rfl
@[simp] theorem complete_stopPoll (s : State) (st : Status) (r : Result) : (s.complete st r).stopPoll = s.stopPoll := rfl
@[simp] theorem complete_fSumOvf (s : State) (st : Status) (r : Result) : (s.complete st r).fSumOvf = s.fSumOvf := rfl
@[simp] theorem complete_maxSum (s : State) (st : Status) (r : Result) : (s.complete st r).maxSum = s.maxSum := rfl
@[simp] theorem complete_rejectAboveMax (s : State) (st : Status) (r : Result) : (s.complete st r).rejectAboveMax = s.rejectAboveMax := rfl
@[simp] theorem complete_accSum (s : State) (st : Status) (r : Result) : (s.complete st r).accSum = s.accSum := rfl
@[simp] theorem complete_hasDbError (s : State) (st : Status) (r : Result) : (s.complete st r).hasDbError = s.hasDbError := rfl
@[simp] theorem complete_escPrev (s : State) (st : Status) (r : Result) : (s.complete st r).escPrev = s.escPrev := rfl
@[simp] theorem complete_escrowed (s : State) (st : Status) (r : Result) : (s.complete st r).escrowed = s.escrowed := rfl
@[simp] theorem complete_lastEscTime (s : State) (st : Status) (r : Result) : (s.complete st r).lastEscTime = s.lastEscTime := rfl
@[simp] theorem complete_lastCmd (s : State) (st : Status) (r : Result) : (s.complete st r).lastCmd = s.lastCmd := rfl
@[simp] theorem complete_pendAcc (s : State) (st : Status) (r : Result) : (s.complete st r).pendAcc = s.pendAcc := rfl
@[simp] theorem complete_evq (s : State) (st : Status) (r : Result) : (s.complete st r).evq = s.evq := rfl
@[simp] theorem complete_serialTx (s : State) (st : Status) (r : Result) : (s.complete st r).serialTx = s.serialTx := rfl
@[simp] theorem complete_serialRx (s : State) (st : Status) (r : Result) : (s.complete st r).serialRx = s.serialRx := rfl
@[simp] theorem complete_params (s : State) (st : Status) (r : Result) : (s.complete st r).params = s.params := rfl
@[simp] theorem complete_result (s : State) (st : Status) (r : Result) : (s.complete st r).result = r := rfl
@[simp] theorem complete_trace (s : State) (st : Status) (r : Result) : (s.complete st r).trace = s.trace := rfl
@[simp] theorem complete_pending (s : State) (st : Status) (r : Result) : (s.complete st r).pending = s.pending := rfl
@[simp] theorem complete_openScript (s : State) (st : Status) (r : Result) : (s.complete st r).openScript = s.openScript := rfl
@[simp] theorem complete_writeScript (s : State) (st : Status) (r : Result) : (s.complete st r).writeScript = s.writeScript := rfl
@[simp] theorem complete_readScript (s : State) (st : Status) (r : Result) : (s.complete st r).readScript = s.readScript := rfl
@[simp] theorem complete_portCalls (s : State) (st : Status) (r : Result) : (s.complete st r).portCalls = s.portCalls := rfl

/-! ### emit -/

@[simp] theorem emit_acc8 (s : State) (e : Event) : (s.emit e).acc8 = s.acc8 := rfl
@[simp] theorem emit_crc (s : State) (e : Event) : (s.emit e).crc = s.crc := rfl
@[simp] theorem emit_accx (s : State) (e : Event) : (s.emit e).accx = s.accx := rfl
@[simp] theorem emit_txbuf (s : State) (e : Event) : (s.emit e).txbuf = s.txbuf := rfl
@[simp] theorem emit_txLen (s : State) (e : Event) : (s.emit e).txLen = s.txLen := rfl
@[simp] theorem emit_rxbuf (s : State) (e : Event) : (s.emit e).rxbuf = s.rxbuf := rfl
@[simp] theorem emit_rxLen (s : State) (e : Event) : (s.emit e).rxLen = s.rxLen := rfl
@[simp] theorem emit_ebdAck (s : State) (e : Event) : (s.emit e).ebdAck = s.ebdAck := rfl
@[simp] theorem emit_fExt (s : State) (e : Event) : (s.emit e).fExt = s.fExt := rfl
@[simp] theorem emit_fResync (s : State) (e : Event) : (s.emit e).fResync = s.fResync := rfl
@[simp] theorem emit_fNakExh (s : State) (e : Event) : (s.emit e).fNakExh = s.fNakExh := rfl
@[simp] theorem emit_fErrExh (s : State) (e : Event) : (s.emit e).fErrExh = s.fErrExh := rfl
@[simp] theorem emit_lastErr (s : State) (e : Event) : (s.emit e).lastErr = s.lastErr := rfl
@[simp] theorem emit_sesState (s : State) (e : Event) : (s.emit e).sesState = s.sesState := rfl
@[simp] theorem emit_rtyState (s : State) (e : Event) : (s.emit e).rtyState = s.rtyState := rfl
@[simp] theorem emit_nakCnt (s : State) (e : Event) : (s.emit e).nakCnt = s.nakCnt := rfl
@[simp] theorem emit_errCnt (s : State) (e : Event) : (s.emit e).errCnt = s.errCnt := rfl
@[simp] theorem emit_portOpen (s : State) (e : Event) : (s.emit e).portOpen = s.portOpen := rfl
@[simp] theorem emit_devAvail (s : State) (e : Event) : (s.emit e).devAvail = s.devAvail := rfl
@[simp] theorem emit_stopPoll (s : State) (e : Event) : (s.emit e).stopPoll = s.stopPoll := rfl
@[simp] theorem emit_fSumOvf (s : State) (e : Event) : (s.emit e).fSumOvf = s.fSumOvf := rfl
@[simp] theorem emit_maxSum (s : State) (e : Event) : (s.emit e).maxSum = s.maxSum := rfl
@[simp] theorem emit_rejectAboveMax (s : State) (e : Event) : (s.emit e).rejectAboveMax = s.rejectAboveMax := rfl
@[simp] theorem emit_accSum (s : State) (e : Event) : (s.emit e).accSum = s.accSum := rfl
@[simp] theorem emit_hasDbError (s : State) (e : Event) : (s.emit e).hasDbError = s.hasDbError := rfl
@[simp] theorem emit_escPrev (s : State) (e : Event) : (s.emit e).escPrev = s.escPrev := rfl
@[simp] theorem emit_escrowed (s : State) (e : Event) : (s.emit e).escrowed = s.escrowed := rfl
@[simp] theorem emit_lastEscTime (s : State) (e : Event) : (s.emit e).lastEscTime = s.lastEscTime := rfl
@[simp] theorem emit_lastCmd (s : State) (e : Event) : (s.emit e).lastCmd = s.lastCmd := rfl
@[simp] theorem emit_pendAcc (s : State) (e : Event) : (s.emit e).pendAcc = s.pendAcc := rfl
@[simp] theorem emit_evq (s : State) (e : Event) : (s.emit e).evq = s.evq ++ [e] := rfl
@[simp] theorem emit_serialTx (s : State) (e : Event) : (s.emit e).serialTx = s.serialTx := rfl
@[simp] theorem emit_serialRx (s : State) (e : Event) : (s.emit e).serialRx = s.serialRx := rfl
@[simp] theorem emit_params (s : State) (e : Event) : (s.emit e).params = s.params := rfl
@[simp] theorem emit_result (s : State) (e : Event) : (s.emit e).result = s.result := rfl
@[simp] theorem emit_trace (s : State) (e : Event) : (s.emit e).trace = s.trace := rfl
@[simp] theorem emit_pending (s : State) (e : Event) : (s.emit e).pending = s.pending := rfl
@[simp] theorem emit_openScript (s : State) (e : Event) : (s.emit e).openScript = s.openScript := rfl
@[simp] theorem emit_writeScript (s : State) (e : Event) : (s.emit e).writeScript = s.writeScript := rfl
@[simp] theorem emit_readScript (s : State) (e : Event) : (s.emit e).readScript = s.readScript := rfl
@[simp] theorem emit_portCalls (s : State) (e : Event) : (s.emit e).portCalls = s.portCalls := rfl

/-! ### closePort -/

@[simp] theorem closePort_acc8 (s : State) : (s.closePort).acc8 = s.acc8 := rfl
@[simp] theorem closePort_crc (s : State) : (s.closePort).crc = s.crc := rfl
@[simp] theorem closePort_accx (s : State) : (s.closePort).accx = s.accx := rfl
@[simp] theorem closePort_txbuf (s : State) : (s.closePort).txbuf = s.txbuf := rfl
@[simp] theorem closePort_txLen (s : State) : (s.closePort).txLen = s.txLen := rfl
@[simp] theorem closePort_rxbuf (s : State) : (s.closePort).rxbuf = s.rxbuf := rfl
@[simp] theorem closePort_rxLen (s : State) : (s.closePort).rxLen = s.rxLen := rfl
@[simp] theorem closePort_ebdAck (s : State) : (s.closePort).ebdAck = s.ebdAck := rfl
@[simp] theorem closePort_fExt (s : State) : (s.closePort).fExt = s.fExt := rfl
@[simp] theorem closePort_fResync (s : State) : (s.closePort).fResync = s.fResync := rfl
@[simp] theorem closePort_fNakExh (s : State) : (s.closePort).fNakExh = s.fNakExh := rfl
@[simp] theorem closePort_fErrExh (s : State) : (s.closePort).fErrExh = s.fErrExh := rfl
@[simp] theorem closePort_lastErr (s : State) : (s.closePort).lastErr = s.lastErr := rfl
@[simp] theorem closePort_sesState (s : State) : (s.closePort).sesState = s.sesState := rfl
@[simp] theorem closePort_rtyState (s : State) : (s.closePort).rtyState = s.rtyState := rfl
@[simp] theorem closePort_nakCnt (s : State) : (s.closePort).nakCnt = s.nakCnt := rfl
@[simp] theorem closePort_errCnt (s : State) : (s.closePort).errCnt = s.errCnt := rfl
@[simp] theorem closePort_portOpen (s : State) : (s.closePort).portOpen = false := rfl
@[simp] theorem closePort_devAvail (s : State) : (s.closePort).devAvail = s.devAvail := rfl
@[simp] theorem closePort_stopPoll (s : State) : (s.closePort).stopPoll = s.stopPoll := rfl
@[simp] theorem closePort_fSumOvf (s : State) : (s.closePort).fSumOvf = s.fSumOvf := rfl
@[simp] theorem closePort_maxSum (s : State) : (s.closePort).maxSum = s.maxSum := rfl
@[simp] theorem closePort_rejectAboveMax (s : State) : (s.closePort).rejectAboveMax = s.rejectAboveMax := rfl
@[simp] theorem closePort_accSum (s : State) : (s.closePort).accSum = s.accSum := rfl
@[simp] theorem closePort_hasDbError (s : State) : (s.closePort).hasDbError = s.hasDbError := rfl
@[simp] theorem closePort_escPrev (s : State) : (s.closePort).escPrev = s.escPrev := rfl
@[simp] theorem closePort_escrowed (s : State) : (s.closePort).escrowed = s.escrowed := rfl
@[simp] theorem closePort_lastEscTime (s : State) : (s.closePort).lastEscTime = s.lastEscTime := rfl
@[simp] theorem closePort_lastCmd (s : State) : (s.closePort).lastCmd = s.lastCmd := rfl
@[simp] theorem closePort_pendAcc (s : State) : (s.closePort).pendAcc = s.pendAcc := rfl
@[simp] theorem closePort_evq (s : State) : (s.closePort).evq = s.evq := rfl
@[simp] theorem closePort_serialTx (s : State) : (s.closePort).serialTx = s.serialTx := rfl
@[simp] theorem closePort_serialRx (s : State) : (s.closePort).serialRx = [] := rfl
@[simp] theorem closePort_params (s : State) : (s.closePort).params = s.params := rfl
@[simp] theorem closePort_result (s : State) : (s.closePort).result = s.result := rfl
@[simp] theorem closePort_trace (s : State) : (s.closePort).trace = s.trace := rfl
@[simp] theorem closePort_pending (s : State) : (s.closePort).pending = s.pending := rfl
@[simp] theorem closePort_openScript (s : State) : (s.closePort).openScript = s.openScript := rfl
@[simp] theorem closePort_writeScript (s : State) : (s.closePort).writeScript = s.writeScript := rfl
@[simp] theorem closePort_readScript (s : State) : (s.closePort).readScript = s.readScript := rfl
@[simp] theorem closePort_portCalls (s : State) : (s.closePort).portCalls = s.portCalls := rfl

/-! ### escReset -/

@[simp] theorem escReset_acc8 (s : State) : (s.escReset).acc8 = s.acc8 := rfl
@[simp] theorem escReset_crc (s : State) : (s.escReset).crc = s.crc := rfl
@[simp] theorem escReset_accx (s : State) : (s.escReset).accx = s.accx := rfl
@[simp] theorem escReset_txbuf (s : State) : (s.escReset).txbuf = s.txbuf := rfl
@[simp] theorem escReset_txLen (s : State) : (s.escReset).txLen = s.txLen := rfl
@[simp] theorem escReset_rxbuf (s : State) : (s.escReset).rxbuf = s.rxbuf := rfl
@[simp] theorem escReset_rxLen (s : State) : (s.escReset).rxLen = s.rxLen := rfl
@[simp] theorem escReset_ebdAck (s : State) : (s.escReset).ebdAck = s.ebdAck := rfl
@[simp] theorem escReset_fExt (s : State) : (s.escReset).fExt = s.fExt := rfl
@[simp] theorem escReset_fResync (s : State) : (s.escReset).fResync = s.fResync := rfl
@[simp] theorem escReset_fNakExh (s : State) : (s.escReset).fNakExh = s.fNakExh := rfl
@[simp] theorem escReset_fErrExh (s : State) : (s.escReset).fErrExh = s.fErrExh := rfl
@[simp] theorem escReset_lastErr (s : State) : (s.escReset).lastErr = s.lastErr := rfl
@[simp] theorem escReset_sesState (s : State) : (s.escReset).sesState = s.sesState := rfl
@[simp] theorem escReset_rtyState (s : State) : (s.escReset).rtyState = s.rtyState := rfl
@[simp] theorem escReset_nakCnt (s : State) : (s.escReset).nakCnt = s.nakCnt := rfl
@[simp] theorem escReset_errCnt (s : State) : (s.escReset).errCnt = s.errCnt := rfl
@[simp] theorem escReset_portOpen (s : State) : (s.escReset).portOpen = s.portOpen := rfl
@[simp] theorem escReset_devAvail (s : State) : (s.escReset).devAvail = s.devAvail := rfl
@[simp] theorem escReset_stopPoll (s : State) : (s.escReset).stopPoll = s.stopPoll := rfl
@[simp] theorem escReset_fSumOvf (s : State) : (s.escReset).fSumOvf = false := rfl
@[simp] theorem escReset_maxSum (s : State) : (s.escReset).maxSum = s.maxSum := rfl
@[simp] theorem escReset_rejectAboveMax (s : State) : (s.escReset).rejectAboveMax = s.rejectAboveMax := rfl
@[simp] theorem escReset_accSum (s : State) : (s.escReset).accSum = 0 := rfl
@[simp] theorem escReset_hasDbError (s : State) : (s.escReset).hasDbError = s.hasDbError := rfl
@[simp] theorem escReset_escPrev (s : State) : (s.escReset).escPrev = none := rfl
@[simp] theorem escReset_escrowed (s : State) : (s.escReset).escrowed = false := rfl
@[simp] theorem escReset_lastEscTime (s : State) : (s.escReset).lastEscTime = s.lastEscTime := rfl
@[simp] theorem escReset_lastCmd (s : State) : (s.escReset).lastCmd = .none := rfl
@[simp] theorem escReset_pendAcc (s : State) : (s.escReset).pendAcc = false := rfl
@[simp] theorem escReset_evq (s : State) : (s.escReset).evq = s.evq := rfl
@[simp] theorem escReset_serialTx (s : State) : (s.escReset).serialTx = s.serialTx := rfl
@[simp] theorem escReset_serialRx (s : State) : (s.escReset).serialRx = s.serialRx := rfl
@[simp] theorem escReset_params (s : State) : (s.escReset).params = s.params := rfl
@[simp] theorem escReset_result (s : State) : (s.escReset).result = s.result := rfl
@[simp] theorem escReset_trace (s : State) : (s.escReset).trace = s.trace := rfl
@[simp] theorem escReset_pending (s : State) : (s.escReset).pending = s.pending := rfl
@[simp] theorem escReset_openScript (s : State) : (s.escReset).openScript = s.openScript := rfl
@[simp] theorem escReset_writeScript (s : State) : (s.escReset).writeScript = s.writeScript := rfl
@[simp] theorem escReset_readScript (s : State) : (s.escReset).readScript = s.readScript := rfl
@[simp] theorem escReset_portCalls (s : State) : (s.escReset).portCalls = s.portCalls := rfl

/-! ### teardown -/

@[simp] theorem teardown_acc8 (s : State) : (s.teardown).acc8 = s.acc8 := rfl
@[simp] theorem teardown_crc (s : State) : (s.teardown).crc = s.crc := rfl
@[simp] theorem teardown_accx (s : State) : (s.teardown).accx = s.accx := rfl
@[simp] theorem teardown_txbuf (s : State) : (s.teardown).txbuf = s.txbuf := rfl
@[simp] theorem teardown_txLen (s : State) : (s.teardown).txLen = s.txLen := rfl
@[simp] theorem teardown_rxbuf (s : State) : (s.teardown).rxbuf = s.rxbuf := rfl
@[simp] theorem teardown_rxLen (s : State) : (s.teardown).rxLen = s.rxLen := rfl
@[simp] theorem teardown_ebdAck (s : State) : (s.teardown).ebdAck = s.ebdAck := rfl
@[simp] theorem teardown_fExt (s : State) : (s.teardown).fExt = s.fExt := rfl
@[simp] theorem teardown_fResync (s : State) : (s.teardown).fResync = s.fResync := rfl
@[simp] theorem teardown_fNakExh (s : State) : (s.teardown).fNakExh = s.fNakExh := rfl
@[simp] theorem teardown_fErrExh (s : State) : (s.teardown).fErrExh = s.fErrExh := rfl
@[simp] theorem teardown_lastErr (s : State) : (s.teardown).lastErr = s.lastErr := rfl
@[simp] theorem teardown_sesState (s : State) : (s.teardown).sesState = .closed := rfl
@[simp] theorem teardown_rtyState (s : State) : (s.teardown).rtyState = s.rtyState := rfl
@[simp] theorem teardown_nakCnt (s : State) : (s.teardown).nakCnt = s.nakCnt := rfl
@[simp] theorem teardown_errCnt (s : State) : (s.teardown).errCnt = s.errCnt := rfl
@[simp] theorem teardown_portOpen (s : State) : (s.teardown).portOpen = false := rfl
@[simp] theorem teardown_devAvail (s : State) : (s.teardown).devAvail = false := rfl
@[simp] theorem teardown_stopPoll (s : State) : (s.teardown).stopPoll = s.stopPoll := rfl
@[simp] theorem teardown_fSumOvf (s : State) : (s.teardown).fSumOvf = false := rfl
@[simp] theorem teardown_maxSum (s : State) : (s.teardown).maxSum = s.maxSum := rfl
@[simp] theorem teardown_rejectAboveMax (s : State) : (s.teardown).rejectAboveMax = s.rejectAboveMax := rfl
@[simp] theorem teardown_accSum (s : State) : (s.teardown).accSum = 0 := rfl
@[simp] theorem teardown_hasDbError (s : State) : (s.teardown).hasDbError = s.hasDbError := rfl
@[simp] theorem teardown_escPrev (s : State) : (s.teardown).escPrev = none := rfl
@[simp] theorem teardown_escrowed (s : State) : (s.teardown).escrowed = false := rfl
@[simp] theorem teardown_lastEscTime (s : State) : (s.teardown).lastEscTime = s.lastEscTime := rfl
@[simp] theorem teardown_lastCmd (s : State) : (s.teardown).lastCmd = .none := rfl
@[simp] theorem teardown_pendAcc (s : State) : (s.teardown).pendAcc = false := rfl
@[simp] theorem teardown_evq (s : State) : (s.teardown).evq = s.evq := rfl
@[simp] theorem teardown_serialTx (s : State) : (s.teardown).serialTx = s.serialTx := rfl
@[simp] theorem teardown_serialRx (s : State) : (s.teardown).serialRx = [] := rfl
@[simp] theorem teardown_params (s : State) : (s.teardown).params = s.params := rfl
@[simp] theorem teardown_result (s : State) : (s.teardown).result = s.result := rfl
@[simp] theorem teardown_trace (s : State) : (s.teardown).trace = s.trace := rfl
@[simp] theorem teardown_pending (s : State) : (s.teardown).pending = s.pending := rfl
@[simp] theorem teardown_openScript (s : State) : (s.teardown).openScript = s.openScript := rfl
@[simp] theorem teardown_writeScript (s : State) : (s.teardown).writeScript = s.writeScript := rfl
@[simp] theorem teardown_readScript (s : State) : (s.teardown).readScript = s.readScript := rfl
@[simp] theorem teardown_portCalls (s : State) : (s.teardown).portCalls = s.portCalls := rfl

/-! ### finishExchange -/

@[simp] theorem finishExchange_acc8 (s : State) : (s.finishExchange).acc8 = s.acc8 := rfl
@[simp] theorem finishExchange_crc (s : State) : (s.finishExchange).crc = s.crc := rfl
@[simp] theorem finishExchange_accx (s : State) : (s.finishExchange).accx = s.accx := rfl
@[simp] theorem finishExchange_txbuf (s : State) : (s.finishExchange).txbuf = s.txbuf := rfl
@[simp] theorem finishExchange_txLen (s : State) : (s.finishExchange).txLen = s.txLen := rfl
@[simp] theorem finishExchange_rxbuf (s : State) : (s.finishExchange).rxbuf = s.rxbuf := rfl
@[simp] theorem finishExchange_rxLen (s : State) : (s.finishExchange).rxLen = s.rxLen := rfl
@[simp] theorem finishExchange_ebdAck (s : State) : (s.finishExchange).ebdAck = if s.params.proto = .ebds then !s.ebdAck else s.ebdAck := rfl
@[simp] theorem finishExchange_fExt (s : State) : (s.finishExchange).fExt = s.fExt := rfl
@[simp] theorem finishExchange_fResync (s : State) : (s.finishExchange).fResync = s.fResync := rfl
@[simp] theorem finishExchange_fNakExh (s : State) : (s.finishExchange).fNakExh = s.fNakExh := rfl
@[simp] theorem finishExchange_fErrExh (s : State) : (s.finishExchange).fErrExh = s.fErrExh := rfl
@[simp] theorem finishExchange_lastErr (s : State) : (s.finishExchange).lastErr = s.lastErr := rfl
@[simp] theorem finishExchange_sesState (s : State) : (s.finishExchange).sesState = s.sesState := rfl
@[simp] theorem finishExchange_rtyState (s : State) : (s.finishExchange).rtyState = .idle := rfl
@[simp] theorem finishExchange_nakCnt (s : State) : (s.finishExchange).nakCnt = s.nakCnt := rfl
@[simp] theorem finishExchange_errCnt (s : State) : (s.finishExchange).errCnt = s.errCnt := rfl
@[simp] theorem finishExchange_portOpen (s : State) : (s.finishExchange).portOpen = s.portOpen := rfl
@[simp] theorem finishExchange_devAvail (s : State) : (s.finishExchange).devAvail = s.devAvail := rfl
@[simp] theorem finishExchange_stopPoll (s : State) : (s.finishExchange).stopPoll = s.stopPoll := rfl
@[simp] theorem finishExchange_fSumOvf (s : State) : (s.finishExchange).fSumOvf = s.fSumOvf := rfl
@[simp] theorem finishExchange_maxSum (s : State) : (s.finishExchange).maxSum = s.maxSum := rfl
@[simp] theorem finishExchange_rejectAboveMax (s : State) : (s.finishExchange).rejectAboveMax = s.rejectAboveMax := rfl
@[simp] theorem finishExchange_accSum (s : State) : (s.finishExchange).accSum = s.accSum := rfl
@[simp] theorem finishExchange_hasDbError (s : State) : (s.finishExchange).hasDbError = s.hasDbError := rfl
@[simp] theorem finishExchange_escPrev (s : State) : (s.finishExchange).escPrev = s.escPrev := rfl
@[simp] theorem finishExchange_escrowed (s : State) : (s.finishExchange).escrowed = s.escrowed := rfl
@[simp] theorem finishExchange_lastEscTime (s : State) : (s.finishExchange).lastEscTime = s.lastEscTime := rfl
@[simp] theorem finishExchange_lastCmd (s : State) : (s.finishExchange).lastCmd = s.lastCmd := rfl
@[simp] theorem finishExchange_pendAcc (s : State) : (s.finishExchange).pendAcc = s.pendAcc := rfl
@[simp] theorem finishExchange_evq (s : State) : (s.finishExchange).evq = s.evq := rfl
@[simp] theorem finishExchange_serialTx (s : State) : (s.finishExchange).serialTx = s.serialTx := rfl
@[simp] theorem finishExchange_serialRx (s : State) : (s.finishExchange).serialRx = s.serialRx := rfl
@[simp] theorem finishExchange_params (s : State) : (s.finishExchange).params = s.params := rfl
@[simp] theorem finishExchange_result (s : State) : (s.finishExchange).result = s.result := rfl
@[simp] theorem finishExchange_trace (s : State) : (s.finishExchange).trace = s.trace := rfl
@[simp] theorem finishExchange_pending (s : State) : (s.finishExchange).pending = s.pending := rfl
@[simp] theorem finishExchange_openScript (s : State) : (s.finishExchange).openScript = s.openScript := rfl
@[simp] theorem finishExchange_writeScript (s : State) : (s.finishExchange).writeScript = s.writeScript := rfl
@[simp] theorem finishExchange_readScript (s : State) : (s.finishExchange).readScript = s.readScript := rfl
@[simp] theorem finishExchange_portCalls (s : State) : (s.finishExchange).portCalls = s.portCalls := rfl

/-! ### beginExchange -/

@[simp] theorem beginExchange_acc8 (s : State) (f : Bytes) : (s.beginExchange f).acc8 = s.acc8 := rfl
@[simp] theorem beginExchange_crc (s : State) (f : Bytes) : (s.beginExchange f).crc = s.crc := rfl
@[simp] theorem beginExchange_accx (s : State) (f : Bytes) : (s.beginExchange f).accx = s.accx := rfl
@[simp] theorem beginExchange_txbuf (s : State) (f : Bytes) : (s.beginExchange f).txbuf = Memory.store f := rfl
@[simp] theorem beginExchange_txLen (s : State) (f : Bytes) : (s.beginExchange f).txLen = f.length := rfl
@[simp] theorem beginExchange_rxbuf (s : State) (f : Bytes) : (s.beginExchange f).rxbuf = s.rxbuf := rfl
@[simp] theorem beginExchange_rxLen (s : State) (f : Bytes) : (s.beginExchange f).rxLen = s.rxLen := rfl
@[simp] theorem beginExchange_ebdAck (s : State) (f : Bytes) : (s.beginExchange f).ebdAck = s.ebdAck := rfl
@[simp] theorem beginExchange_fExt (s : State) (f : Bytes) : (s.beginExchange f).fExt = s.fExt := rfl
@[simp] theorem beginExchange_fResync (s : State) (f : Bytes) : (s.beginExchange f).fResync = s.fResync := rfl
@[simp] theorem beginExchange_fNakExh (s : State) (f : Bytes) : (s.beginExchange f).fNakExh = false := rfl
@[simp] theorem beginExchange_fErrExh (s : State) (f : Bytes) : (s.beginExchange f).fErrExh = false := rfl
@[simp] theorem beginExchange_lastErr (s : State) (f : Bytes) : (s.beginExchange f).lastErr = s.lastErr := rfl
@[simp] theorem beginExchange_sesState (s : State) (f : Bytes) : (s.beginExchange f).sesState = s.sesState := rfl
@[simp] theorem beginExchange_rtyState (s : State) (f : Bytes) : (s.beginExchange f).rtyState = .write := rfl
@[simp] theorem beginExchange_nakCnt (s : State) (f : Bytes) : (s.beginExchange f).nakCnt = 0 := rfl
@[simp] theorem beginExchange_errCnt (s : State) (f : Bytes) : (s.beginExchange f).errCnt = 0 := rfl
@[simp] theorem beginExchange_portOpen (s : State) (f : Bytes) : (s.beginExchange f).portOpen = s.portOpen := rfl
@[simp] theorem beginExchange_devAvail (s : State) (f : Bytes) : (s.beginExchange f).devAvail = s.devAvail := rfl
@[simp] theorem beginExchange_stopPoll (s : State) (f : Bytes) : (s.beginExchange f).stopPoll = s.stopPoll := rfl
@[simp] theorem beginExchange_fSumOvf (s : State) (f : Bytes) : (s.beginExchange f).fSumOvf = s.fSumOvf := rfl
@[simp] theorem beginExchange_maxSum (s : State) (f : Bytes) : (s.beginExchange f).maxSum = s.maxSum := rfl
@[simp] theorem beginExchange_rejectAboveMax (s : State) (f : Bytes) : (s.beginExchange f).rejectAboveMax = s.rejectAboveMax := rfl
@[simp] theorem beginExchange_accSum (s : State) (f : Bytes) : (s.beginExchange f).accSum = s.accSum := rfl
@[simp] theorem beginExchange_hasDbError (s : State) (f : Bytes) : (s.beginExchange f).hasDbError = s.hasDbError := rfl
@[simp] theorem beginExchange_escPrev (s : State) (f : Bytes) : (s.beginExchange f).escPrev = s.escPrev := rfl
@[simp] theorem beginExchange_escrowed (s : State) (f : Bytes) : (s.beginExchange f).escrowed = s.escrowed := rfl
@[simp] theorem beginExchange_lastEscTime (s : State) (f : Bytes) : (s.beginExchange f).lastEscTime = s.lastEscTime := rfl
@[simp] theorem beginExchange_lastCmd (s : State) (f : Bytes) : (s.beginExchange f).lastCmd = s.lastCmd := rfl
@[simp] theorem beginExchange_pendAcc (s : State) (f : Bytes) : (s.beginExchange f).pendAcc = s.pendAcc := rfl
@[simp] theorem beginExchange_evq (s : State) (f : Bytes) : (s.beginExchange f).evq = s.evq := rfl
@[simp] theorem beginExchange_serialTx (s : State) (f : Bytes) : (s.beginExchange f).serialTx = s.serialTx := rfl
@[simp] theorem beginExchange_serialRx (s : State) (f : Bytes) : (s.beginExchange f).serialRx = s.serialRx := rfl
@[simp] theorem beginExchange_params (s : State) (f : Bytes) : (s.beginExchange f).params = s.params := rfl
@[simp] theorem beginExchange_result (s : State) (f : Bytes) : (s.beginExchange f).result = s.result := rfl
@[simp] theorem beginExchange_trace (s : State) (f : Bytes) : (s.beginExchange f).trace = s.trace := rfl
@[simp] theorem beginExchange_pending (s : State) (f : Bytes) : (s.beginExchange f).pending = s.pending := rfl
@[simp] theorem beginExchange_openScript (s : State) (f : Bytes) : (s.beginExchange f).openScript = s.openScript := rfl
@[simp] theorem beginExchange_writeScript (s : State) (f : Bytes) : (s.beginExchange f).writeScript = s.writeScript := rfl
@[simp] theorem beginExchange_readScript (s : State) (f : Bytes) : (s.beginExchange f).readScript = s.readScript := rfl
@[simp] theorem beginExchange_portCalls (s : State) (f : Bytes) : (s.beginExchange f).portCalls = s.portCalls := rfl

/-! ### traced -/

@[simp] theorem traced_acc8 (s : State) (d : Direction) (bs : Bytes) : (s.traced d bs).acc8 = s.acc8 := by unfold State.traced; split <;> rfl
@[simp] theorem traced_crc (s : State) (d : Direction) (bs : Bytes) : (s.traced d bs).crc = s.crc := by unfold State.traced; split <;> rfl
@[simp] theorem traced_accx (s : State) (d : Direction) (bs : Bytes) : (s.traced d bs).accx = s.accx := by unfold State.traced; split <;> rfl
@[simp] theorem traced_txbuf (s : State) (d : Direction) (bs : Bytes) : (s.traced d bs).txbuf = s.txbuf := by unfold State.traced; split <;> rfl
@[simp] theorem traced_txLen (s : State) (d : Direction) (bs : Bytes) : (s.traced d bs).txLen = s.txLen := by unfold State.traced; split <;> rfl
@[simp] theorem traced_rxbuf (s : State) (d : Direction) (bs : Bytes) : (s.traced d bs).rxbuf = s.rxbuf := by unfold State.traced; split <;> rfl
@[simp] theorem traced_rxLen (s : State) (d : Direction) (bs : Bytes) : (s.traced d bs).rxLen = s.rxLen := by unfold State.traced; split <;> rfl
@[simp] theorem traced_ebdAck (s : State) (d : Direction) (bs : Bytes) : (s.traced d bs).ebdAck = s.ebdAck := by unfold State.traced; split <;> rfl
@[simp] theorem traced_fExt (s : State) (d : Direction) (bs : Bytes) : (s.traced d bs).fExt = s.fExt := by unfold State.traced; split <;> rfl
@[simp] theorem traced_fResync (s : State) (d : Direction) (bs : Bytes) : (s.traced d bs).fResync = s.fResync := by unfold State.traced; split <;> rfl
@[simp] theorem traced_fNakExh (s : State) (d : Direction) (bs : Bytes) : (s.traced d bs).fNakExh = s.fNakExh := by unfold State.traced; split <;> rfl
@[simp] theorem traced_fErrExh (s : State) (d : Direction) (bs : Bytes) : (s.traced d bs).fErrExh = s.fErrExh := by unfold State.traced; split <;> rfl
@[simp] theorem traced_lastErr (s : State) (d : Direction) (bs : Bytes) : (s.traced d bs).lastErr = s.lastErr := by unfold State.traced; split <;> rfl
@[simp] theorem traced_sesState (s : State) (d : Direction) (bs : Bytes) : (s.traced d bs).sesState = s.sesState := by unfold State.traced; split <;> rfl
@[simp] theorem traced_rtyState (s : State) (d : Direction) (bs : Bytes) : (s.traced d bs).rtyState = s.rtyState := by unfold State.traced; split <;> rfl
@[simp] theorem traced_nakCnt (s : State) (d : Direction) (bs : Bytes) : (s.traced d bs).nakCnt = s.nakCnt := by unfold State.traced; split <;> rfl
@[simp] theorem traced_errCnt (s : State) (d : Direction) (bs : Bytes) : (s.traced d bs).errCnt = s.errCnt := by unfold State.traced; split <;> rfl
@[simp] theorem traced_portOpen (s : State) (d : Direction) (bs : Bytes) : (s.traced d bs).portOpen = s.portOpen := by unfold State.traced; split <;> rfl
@[simp] theorem traced_devAvail (s : State) (d : Direction) (bs : Bytes) : (s.traced d bs).devAvail = s.devAvail := by unfold State.traced; split <;> rfl
@[simp] theorem traced_stopPoll (s : State) (d : Direction) (bs : Bytes) : (s.traced d bs).stopPoll = s.stopPoll := by unfold State.traced; split <;> rfl
@[simp] theorem traced_fSumOvf (s : State) (d : Direction) (bs : Bytes) : (s.traced d bs).fSumOvf = s.fSumOvf := by unfold State.traced; split <;> rfl
@[simp] theorem traced_maxSum (s : State) (d : Direction) (bs : Bytes) : (s.traced d bs).maxSum = s.maxSum := by unfold State.traced; split <;> rfl
@[simp] theorem traced_rejectAboveMax (s : State) (d : Direction) (bs : Bytes) : (s.traced d bs).rejectAboveMax = s.rejectAboveMax := by unfold State.traced; split <;> rfl
@[simp] theorem traced_accSum (s : State) (d : Direction) (bs : Bytes) : (s.traced d bs).accSum = s.accSum := by unfold State.traced; split <;> rfl
@[simp] theorem traced_hasDbError (s : State) (d : Direction) (bs : Bytes) : (s.traced d bs).hasDbError = s.hasDbError := by unfold State.traced; split <;> rfl
@[simp] theorem traced_escPrev (s : State) (d : Direction) (bs : Bytes) : (s.traced d bs).escPrev = s.escPrev := by unfold State.traced; split <;> rfl
@[simp] theorem traced_escrowed (s : State) (d : Direction) (bs : Bytes) : (s.traced d bs).escrowed = s.escrowed := by unfold State.traced; split <;> rfl
@[simp] theorem traced_lastEscTime (s : State) (d : Direction) (bs : Bytes) : (s.traced d bs).lastEscTime = s.lastEscTime := by unfold State.traced; split <;> rfl
@[simp] theorem traced_lastCmd (s : State) (d : Direction) (bs : Bytes) : (s.traced d bs).lastCmd = s.lastCmd := by unfold State.traced; split <;> rfl
@[simp] theorem traced_pendAcc (s : State) (d : Direction) (bs : Bytes) : (s.traced d bs).pendAcc = s.pendAcc := by unfold State.traced; split <;> rfl
@[simp] theorem traced_evq (s : State) (d : Direction) (bs : Bytes) : (s.traced d bs).evq = s.evq := by unfold State.traced; split <;> rfl
@[simp] theorem traced_serialTx (s : State) (d : Direction) (bs : Bytes) : (s.traced d bs).serialTx = s.serialTx := by unfold State.traced; split <;> rfl
@[simp] theorem traced_serialRx (s : State) (d : Direction) (bs : Bytes) : (s.traced d bs).serialRx = s.serialRx := by unfold State.traced; split <;> rfl
@[simp] theorem traced_params (s : State) (d : Direction) (bs : Bytes) : (s.traced d bs).params = s.params := by unfold State.traced; split <;> rfl
@[simp] theorem traced_result (s : State) (d : Direction) (bs : Bytes) : (s.traced d bs).result = s.result := by unfold State.traced; split <;> rfl
@[simp] theorem traced_trace (s : State) (d : Direction) (bs : Bytes) : (s.traced d bs).trace = if s.sesState = .polling then s.trace ++ [(d, bs)] else s.trace := by unfold State.traced; split <;> rfl
@[simp] theorem traced_pending (s : State) (d : Direction) (bs : Bytes) : (s.traced d bs).pending = s.pending := by unfold State.traced; split <;> rfl
@[simp] theorem traced_openScript (s : State) (d : Direction) (bs : Bytes) : (s.traced d bs).openScript = s.openScript := by unfold State.traced; split <;> rfl
@[simp] theorem traced_writeScript (s : State) (d : Direction) (bs : Bytes) : (s.traced d bs).writeScript = s.writeScript := by unfold State.traced; split <;> rfl
@[simp] theorem traced_readScript (s : State) (d : Direction) (bs : Bytes) : (s.traced d bs).readScript = s.readScript := by unfold State.traced; split <;> rfl
@[simp] theorem traced_portCalls (s : State) (d : Direction) (bs : Bytes) : (s.traced d bs).portCalls = s.portCalls := by unfold State.traced; split <;> rfl

/-! ### deliver -/

@[simp] theorem deliver_acc8 (s : State) (bs : Bytes) : (s.deliver bs).acc8 = s.acc8 := by unfold State.deliver; split <;> rfl
@[simp] theorem deliver_crc (s : State) (bs : Bytes) : (s.deliver bs).crc = s.crc := by unfold State.deliver; split <;> rfl
@[simp] theorem deliver_accx (s : State) (bs : Bytes) : (s.deliver bs).accx = s.accx := by unfold State.deliver; split <;> rfl
@[simp] theorem deliver_txbuf (s : State) (bs : Bytes) : (s.deliver bs).txbuf = s.txbuf := by unfold State.deliver; split <;> rfl
@[simp] theorem deliver_txLen (s : State) (bs : Bytes) : (s.deliver bs).txLen = s.txLen := by unfold State.deliver; split <;> rfl
@[simp] theorem deliver_rxbuf (s : State) (bs : Bytes) : (s.deliver bs).rxbuf = s.rxbuf := by unfold State.deliver; split <;> rfl
@[simp] theorem deliver_rxLen (s : State) (bs : Bytes) : (s.deliver bs).rxLen = s.rxLen := by unfold State.deliver; split <;> rfl
@[simp] theorem deliver_ebdAck (s : State) (bs : Bytes) : (s.deliver bs).ebdAck = s.ebdAck := by unfold State.deliver; split <;> rfl
@[simp] theorem deliver_fExt (s : State) (bs : Bytes) : (s.deliver bs).fExt = s.fExt := by unfold State.deliver; split <;> rfl
@[simp] theorem deliver_fResync (s : State) (bs : Bytes) : (s.deliver bs).fResync = s.fResync := by unfold State.deliver; split <;> rfl
@[simp] theorem deliver_fNakExh (s : State) (bs : Bytes) : (s.deliver bs).fNakExh = s.fNakExh := by unfold State.deliver; split <;> rfl
@[simp] theorem deliver_fErrExh (s : State) (bs : Bytes) : (s.deliver bs).fErrExh = s.fErrExh := by unfold State.deliver; split <;> rfl
@[simp] theorem deliver_lastErr (s : State) (bs : Bytes) : (s.deliver bs).lastErr = s.lastErr := by unfold State.deliver; split <;> rfl
@[simp] theorem deliver_sesState (s : State) (bs : Bytes) : (s.deliver bs).sesState = s.sesState := by unfold State.deliver; split <;> rfl
@[simp] theorem deliver_rtyState (s : State) (bs : Bytes) : (s.deliver bs).rtyState = s.rtyState := by unfold State.deliver; split <;> rfl
@[simp] theorem deliver_nakCnt (s : State) (bs : Bytes) : (s.deliver bs).nakCnt = s.nakCnt := by unfold State.deliver; split <;> rfl
@[simp] theorem deliver_errCnt (s : State) (bs : Bytes) : (s.deliver bs).errCnt = s.errCnt := by unfold State.deliver; split <;> rfl
@[simp] theorem deliver_portOpen (s : State) (bs : Bytes) : (s.deliver bs).portOpen = s.portOpen := by unfold State.deliver; split <;> rfl
@[simp] theorem deliver_devAvail (s : State) (bs : Bytes) : (s.deliver bs).devAvail = s.devAvail := by unfold State.deliver; split <;> rfl
@[simp] theorem deliver_stopPoll (s : State) (bs : Bytes) : (s.deliver bs).stopPoll = s.stopPoll := by unfold State.deliver; split <;> rfl
@[simp] theorem deliver_fSumOvf (s : State) (bs : Bytes) : (s.deliver bs).fSumOvf = s.fSumOvf := by unfold State.deliver; split <;> rfl
@[simp] theorem deliver_maxSum (s : State) (bs : Bytes) : (s.deliver bs).maxSum = s.maxSum := by unfold State.deliver; split <;> rfl
@[simp] theorem deliver_rejectAboveMax (s : State) (bs : Bytes) : (s.deliver bs).rejectAboveMax = s.rejectAboveMax := by unfold State.deliver; split <;> rfl
@[simp] theorem deliver_accSum (s : State) (bs : Bytes) : (s.deliver bs).accSum = s.accSum := by unfold State.deliver; split <;> rfl
@[simp] theorem deliver_hasDbError (s : State) (bs : Bytes) : (s.deliver bs).hasDbError = s.hasDbError := by unfold State.deliver; split <;> rfl
@[simp] theorem deliver_escPrev (s : State) (bs : Bytes) : (s.deliver bs).escPrev = s.escPrev := by unfold State.deliver; split <;> rfl
@[simp] theorem deliver_escrowed (s : State) (bs : Bytes) : (s.deliver bs).escrowed = s.escrowed := by unfold State.deliver; split <;> rfl
@[simp] theorem deliver_lastEscTime (s : State) (bs : Bytes) : (s.deliver bs).lastEscTime = s.lastEscTime := by unfold State.deliver; split <;> rfl
@[simp] theorem deliver_lastCmd (s : State) (bs : Bytes) : (s.deliver bs).lastCmd = s.lastCmd := by unfold State.deliver; split <;> rfl
@[simp] theorem deliver_pendAcc (s : State) (bs : Bytes) : (s.deliver bs).pendAcc = s.pendAcc := by unfold State.deliver; split <;> rfl
@[simp] theorem deliver_evq (s : State) (bs : Bytes) : (s.deliver bs).evq = s.evq := by unfold State.deliver; split <;> rfl
@[simp] theorem deliver_serialTx (s : State) (bs : Bytes) : (s.deliver bs).serialTx = s.serialTx := by unfold State.deliver; split <;> rfl
@[simp] theorem deliver_serialRx (s : State) (bs : Bytes) : (s.deliver bs).serialRx = if s.portOpen then s.serialRx ++ bs else s.serialRx := by unfold State.deliver; split <;> rfl
@[simp] theorem deliver_params (s : State) (bs : Bytes) : (s.deliver bs).params = s.params := by unfold State.deliver; split <;> rfl
@[simp] theorem deliver_result (s : State) (bs : Bytes) : (s.deliver bs).result = s.result := by unfold State.deliver; split <;> rfl
@[simp] theorem deliver_trace (s : State) (bs : Bytes) : (s.deliver bs).trace = s.trace := by unfold State.deliver; split <;> rfl
@[simp] theorem deliver_pending (s : State) (bs : Bytes) : (s.deliver bs).pending = s.pending := by unfold State.deliver; split <;> rfl
@[simp] theorem deliver_openScript (s : State) (bs : Bytes) : (s.deliver bs).openScript = s.openScript := by unfold State.deliver; split <;> rfl
@[simp] theorem deliver_writeScript (s : State) (bs : Bytes) : (s.deliver bs).writeScript = s.writeScript := by unfold State.deliver; split <;> rfl
@[simp] theorem deliver_readScript (s : State) (bs : Bytes) : (s.deliver bs).readScript = s.readScript := by unfold State.deliver; split <;> rfl
@[simp] theorem deliver_portCalls (s : State) (bs : Bytes) : (s.deliver bs).portCalls = s.portCalls := by unfold State.deliver; split <;> rfl

end Sys2Proof.Machine
end

