-- ==== Sys2Proof/Laws/Ops.lean ====
section
/-! SUPPORT. What each shared operation over port, buffers and status can do, said once. -/

namespace Sys2Proof.Machine

/-- PortOpen, whole (20_memory.md R69). -/
theorem openPort_eq (s : State) : s.openPort =
    (s.openAnswer,
      { s with
        openScript := s.openScript.tail, portCalls := s.portCalls + 1
        portOpen := s.openAnswer || s.portOpen
        serialRx := if s.openAnswer then [] else s.serialRx }) := by
  unfold State.openPort
  cases h : s.openAnswer <;> simp

/-- PortWrite, whole (20_memory.md R66). -/
theorem writePort_eq (s : State) (bs : Bytes) : s.writePort bs =
    (s.writeAnswer,
      { s with
        writeScript := s.writeScript.tail, portCalls := s.portCalls + 1
        serialTx := s.serialTx ++
          (if s.writeAnswer then bs else bs.take (Config.portWriteReached s.portCalls)) }) := by
  unfold State.writePort
  cases h : s.writeAnswer <;> simp

/-- PortRead gives at most `max` bytes, and loses none (20_memory.md R67). -/
theorem readPort_spec (s : State) (max t : Nat) :
    (s.readPort max t).1.length ≤ max ∧
      (s.readPort max t).1 ++ (s.readPort max t).2.serialRx = s.serialRx ++ s.arrivals t := by
  simp only [State.readPort]
  exact ⟨by simp, List.take_append_drop _ _⟩

/-- A decode operation stops only on a byte without a value; else it ends as its function says. -/
theorem withRx_next {s t : State} {k : Bytes → State} :
    withRx s k = .next t ↔ ∃ rx, s.rxBytes = some rx ∧ k rx = t := by
  unfold withRx
  cases h : s.rxBytes <;> simp

theorem withRx_some {s : State} {k : Bytes → State} {rx : Bytes} (h : s.rxBytes = some rx) :
    withRx s k = .next (k rx) := by simp [withRx, h]

/-- A decode operation never refuses. -/
theorem withRx_not_refused {s : State} {k : Bytes → State} {r : Refusal} : withRx s k ≠ .refused r := by
  unfold withRx
  cases h : s.rxBytes <;> simp

/-- An encode operation stores the frame or reports SizeError (60_exceptions.md R407). -/
theorem encodeTo_cases (s : State) (f : Option Bytes) :
    (∃ bs, f = some bs ∧ encodeTo s f = (s.putTx bs).complete .ok .none) ∨
      (f = none ∧ encodeTo s f = s.complete .sizeError .none) := by
  cases f <;> simp [encodeTo]

/-- A decode operation ends with its fields or with one error (41_framers.md R161). -/
theorem decodeTo_cases (s : State) (d : Except DecErr Result) :
    (∃ r, d = .ok r ∧ decodeTo s d = s.complete .ok r) ∨
      (∃ e, d = .error e ∧ decodeTo s d = s.complete (decErrStatus e) .none) := by
  cases d <;> simp [decodeTo]

/-- A status code is one of 0x00 to 0x0A (60_exceptions.md R380). -/
theorem status_code_le (st : Status) : st.code.toNat ≤ 0x0A := by cases st <;> decide

/-- Two statuses with one code are one status (60_exceptions.md R380). -/
theorem status_code_injective {a b : Status} (h : a.code = b.code) : a = b := by
  revert h
  cases a <;> cases b <;> decide

@[simp] theorem resetRegisters_params (s : State) : s.resetRegisters.params = s.params := rfl
@[simp] theorem resetRegisters_portOpen (s : State) : s.resetRegisters.portOpen = false := rfl
@[simp] theorem resetRegisters_sesState (s : State) : s.resetRegisters.sesState = .closed := rfl
@[simp] theorem resetRegisters_evq (s : State) : s.resetRegisters.evq = [] := rfl
@[simp] theorem resetRegisters_serialTx (s : State) : s.resetRegisters.serialTx = s.serialTx := rfl
@[simp] theorem resetRegisters_serialRx (s : State) : s.resetRegisters.serialRx = s.serialRx := rfl

/-- After `esc_reset()` the escrow registers are cleared (43_escrow.md R271). -/
theorem escReset_cleared (s : State) : EscCleared s.escReset := ⟨rfl, rfl, rfl, rfl, rfl, rfl⟩

/-- After `teardown()` the session is closed and the escrow registers are cleared (42_exchange_retry.md R239). -/
theorem teardown_cleared (s : State) : EscCleared s.teardown := ⟨rfl, rfl, rfl, rfl, rfl, rfl⟩

/-- A buffer that agrees with its length can be read whole. -/
theorem bufferOk_readable {m : Memory} {len cap : Nat} (h : BufferOk m len cap) :
    ∃ bs, m.readMany 0 len = some bs ∧ bs.length = len :=
  Memory.readMany_of_indices m len h.2.1

/-- A store leaves a buffer that agrees with its length. -/
theorem bufferOk_store {bs : Bytes} {cap : Nat} (h : bs.length ≤ cap) :
    BufferOk (Memory.store bs) bs.length cap := ⟨by simp, by simp, h⟩

end Sys2Proof.Machine
end

