-- ==== Sys2Proof/Laws/Esc.lean ====
section
/-! SUPPORT. The poll-state operation: what each arm can do, said once (43_escrow.md R274 to R290). -/

namespace Sys2Proof.Machine

/-- The fields that ESC.POLL never writes. -/
structure PollKept (s t : State) : Prop where
  acc8 : t.acc8 = s.acc8
  crc : t.crc = s.crc
  accx : t.accx = s.accx
  txbuf : t.txbuf = s.txbuf
  txLen : t.txLen = s.txLen
  rxbuf : t.rxbuf = s.rxbuf
  rxLen : t.rxLen = s.rxLen
  ebdAck : t.ebdAck = s.ebdAck
  fExt : t.fExt = s.fExt
  fResync : t.fResync = s.fResync
  fNakExh : t.fNakExh = s.fNakExh
  fErrExh : t.fErrExh = s.fErrExh
  lastErr : t.lastErr = s.lastErr
  sesState : t.sesState = s.sesState
  rtyState : t.rtyState = s.rtyState
  nakCnt : t.nakCnt = s.nakCnt
  errCnt : t.errCnt = s.errCnt
  portOpen : t.portOpen = s.portOpen
  devAvail : t.devAvail = s.devAvail
  stopPoll : t.stopPoll = s.stopPoll
  maxSum : t.maxSum = s.maxSum
  rejectAboveMax : t.rejectAboveMax = s.rejectAboveMax
  hasDbError : t.hasDbError = s.hasDbError
  serialTx : t.serialTx = s.serialTx
  serialRx : t.serialRx = s.serialRx
  params : t.params = s.params
  result : t.result = s.result
  trace : t.trace = s.trace
  pending : t.pending = s.pending
  openScript : t.openScript = s.openScript
  writeScript : t.writeScript = s.writeScript
  readScript : t.readScript = s.readScript
  portCalls : t.portCalls = s.portCalls

theorem PollKept.refl (s : State) : PollKept s s := by constructor <;> rfl

theorem PollKept.trans {s t u : State} (h : PollKept s t) (k : PollKept t u) : PollKept s u := by
  constructor
  all_goals first
    | exact k.acc8.trans h.acc8 | exact k.crc.trans h.crc | exact k.accx.trans h.accx
    | exact k.txbuf.trans h.txbuf | exact k.txLen.trans h.txLen | exact k.rxbuf.trans h.rxbuf
    | exact k.rxLen.trans h.rxLen | exact k.ebdAck.trans h.ebdAck | exact k.fExt.trans h.fExt
    | exact k.fResync.trans h.fResync | exact k.fNakExh.trans h.fNakExh | exact k.fErrExh.trans h.fErrExh
    | exact k.lastErr.trans h.lastErr | exact k.sesState.trans h.sesState | exact k.rtyState.trans h.rtyState
    | exact k.nakCnt.trans h.nakCnt | exact k.errCnt.trans h.errCnt | exact k.portOpen.trans h.portOpen
    | exact k.devAvail.trans h.devAvail | exact k.stopPoll.trans h.stopPoll | exact k.maxSum.trans h.maxSum
    | exact k.rejectAboveMax.trans h.rejectAboveMax | exact k.hasDbError.trans h.hasDbError
    | exact k.serialTx.trans h.serialTx | exact k.serialRx.trans h.serialRx | exact k.params.trans h.params
    | exact k.result.trans h.result | exact k.trace.trans h.trace | exact k.pending.trans h.pending
    | exact k.openScript.trans h.openScript | exact k.writeScript.trans h.writeScript
    | exact k.readScript.trans h.readScript | exact k.portCalls.trans h.portCalls

theorem pollKept_status (s : State) (st : PollState) : PollKept s (statusEvent s st) := by
  unfold statusEvent
  split
  · exact .refl s
  · constructor <;> rfl

theorem pollKept_stacked (s : State) (d : Word) : PollKept s (stackedEvent s d) := by
  unfold stackedEvent
  split
  · dsimp only
    split <;> (constructor <;> rfl)
  · exact .refl s

theorem pollKept_escrow (s : State) (d now : Word) : PollKept s (escrowEvent s d now).1 := by
  unfold escrowEvent
  dsimp only
  split <;> (constructor <;> rfl)

theorem pollKept_case (s : State) (st : PollState) (now : Word) : PollKept s (pollCase s st now).1 := by
  unfold pollCase
  split <;> first | exact pollKept_escrow .. | exact pollKept_stacked .. | (constructor <;> rfl)

/-- ESC.POLL writes escrow registers and events only. -/
theorem pollKept_poll (s : State) (st : PollState) (now : Word) : PollKept s (poll st now s).1 := by
  refine ((pollKept_status s st).trans (pollKept_case _ st now)).trans ?_
  unfold poll
  constructor <;> rfl

/-- The arm of an escrow event reads nothing that the event of a state change writes. -/
theorem escrowArm_status (s : State) (st : PollState) (d now : Word) :
    escrowArm (statusEvent s st) d now = escrowArm s d now := by
  unfold statusEvent
  split <;> rfl

/-- The arms in the order of 43_escrow.md R278. -/
theorem escrowArm_cases (s : State) (d now : Word) :
    (d = 0 ∧ escrowArm s d now = .unrecognized) ∨
      (d ≠ 0 ∧ s.hasDbError = true ∧ escrowArm s d now = .dbError) ∨
      (d ≠ 0 ∧ s.hasDbError = false ∧ isDuplicate s now = true ∧ escrowArm s d now = .duplicate) ∨
      (d ≠ 0 ∧ s.hasDbError = false ∧ isDuplicate s now = false ∧ aboveMax s d = true ∧
        escrowArm s d now = .overMax) ∨
      (d ≠ 0 ∧ s.hasDbError = false ∧ isDuplicate s now = false ∧ aboveMax s d = false ∧
        escrowArm s d now = .accept) := by
  unfold escrowArm
  by_cases h0 : d = 0
  · exact Or.inl ⟨h0, if_pos h0⟩
  · cases h1 : s.hasDbError <;> cases h2 : isDuplicate s now <;> cases h3 : aboveMax s d <;> simp <;> exact Decidable.em _

/-- The events of one escrow event beyond the change of state (43_escrow.md R279, R284). -/
def armEvents (d : Word) : EscrowArm → List Event
  | .dbError => [.statusChanged returnedByHost d]
  | .duplicate => [.nominalDuplicate d]
  | .unrecognized | .overMax | .accept => []

/-- An escrow event, whole (43_escrow.md R274). -/
theorem escrowEvent_eq (s : State) (d now : Word) : escrowEvent s d now =
    ({ s with
        lastEscTime := now, escrowed := true, lastCmd := armCommand s (escrowArm s d now)
        evq := s.evq ++ armEvents d (escrowArm s d now)
        fSumOvf := if escrowArm s d now = .accept then sumOvfFlag s d else s.fSumOvf
        accSum := if escrowArm s d now = .accept then s.accSum + d else s.accSum
        pendAcc := if escrowArm s d now = .accept then true else s.pendAcc },
      armCommand s (escrowArm s d now)) := by
  unfold escrowEvent
  cases h : escrowArm s d now <;> simp [armEvents, State.emit, sumOvfFlag]

/-- The event of a change of state (43_escrow.md R289). -/
def changeEvents (s : State) (st : PollState) : List Event :=
  if s.escPrev = some st then [] else [.statusChanged st.tag st.arg]

theorem statusEvent_eq (s : State) (st : PollState) :
    statusEvent s st = { s with evq := s.evq ++ changeEvents s st } := by
  unfold statusEvent changeEvents
  split <;> simp [State.emit]

/-- The event of a Stacked state (43_escrow.md R287). -/
def stackedEvents (s : State) (d : Word) : List Event :=
  if s.pendAcc = true ∧ d ≠ 0 then [.nominalAccepted d] else []

theorem stackedEvent_eq (s : State) (d : Word) :
    stackedEvent s d = { s with pendAcc := false, evq := s.evq ++ stackedEvents s d } := by
  unfold stackedEvent stackedEvents
  cases h : s.pendAcc
  · have hs : s = { s with pendAcc := false } := by rw [← h]
    simpa using hs
  · by_cases hd : d = 0#32 <;> simp [State.emit, hd]

/-- ESC.POLL at an Escrow state, whole. -/
theorem poll_escrow (s : State) (d now : Word) : poll (.escrow d) now s =
    ({ s with
        escPrev := some (.escrow d)
        lastEscTime := now, escrowed := true, lastCmd := armCommand s (escrowArm s d now)
        evq := s.evq ++ changeEvents s (.escrow d) ++ armEvents d (escrowArm s d now)
        fSumOvf := if escrowArm s d now = .accept then sumOvfFlag s d else s.fSumOvf
        accSum := if escrowArm s d now = .accept then s.accSum + d else s.accSum
        pendAcc := if escrowArm s d now = .accept then true else s.pendAcc },
      armCommand s (escrowArm s d now)) := by
  simp only [poll, pollCase, escrowEvent_eq, statusEvent_eq]
  rfl

/-- ESC.POLL at a Stacked state, whole. -/
theorem poll_stacked (s : State) (d now : Word) : poll (.stacked d) now s =
    ({ s with
        escPrev := some (.stacked d), pendAcc := false
        evq := s.evq ++ changeEvents s (.stacked d) ++ stackedEvents s d }, .none) := by
  simp only [poll, pollCase, stackedEvent_eq, statusEvent_eq]
  rfl

/-- ESC.POLL at Returned, whole (43_escrow.md R288). -/
theorem poll_returned (s : State) (now : Word) : poll .returned now s =
    ({ s with
        escPrev := some .returned, pendAcc := false
        evq := s.evq ++ changeEvents s .returned }, .none) := by
  simp only [poll, pollCase, statusEvent_eq]

/-- ESC.POLL at Idling, whole (43_escrow.md R288). -/
theorem poll_idling (s : State) (now : Word) : poll .idling now s =
    ({ s with
        escPrev := some .idling, pendAcc := false, escrowed := false
        evq := s.evq ++ changeEvents s .idling }, .none) := by
  simp only [poll, pollCase, statusEvent_eq]

/-- The states at which ESC.POLL only records the state (43_escrow.md R290). -/
def isSideState : PollState → Bool
  | .escrow _ | .stacked _ | .returned | .idling => false
  | .accepting | .stacking | .returning | .rejecting _ | .jammed _ | .cassetteFull | .cassetteOpen
  | .powerUp | .disabled | .error _ | .initialise => true

/-- ESC.POLL at every other state, whole. -/
theorem poll_side (s : State) (st : PollState) (now : Word) (h : isSideState st = true) : poll st now s =
    ({ s with escPrev := some st, evq := s.evq ++ changeEvents s st }, .none) := by
  cases st <;> first | (simp [isSideState] at h; done) | simp only [poll, pollCase, statusEvent_eq]

/-- The sum is added exactly where it is added below the maximum (43_escrow.md R280, R286). -/
theorem accept_below_max {s : State} {d : Word} (hr : s.rejectAboveMax = true) (h : aboveMax s d = false) :
    (s.accSum + d).toNat = s.accSum.toNat + d.toNat ∧ (s.accSum + d).toNat ≤ s.maxSum.toNat := by
  have hm := s.maxSum.isLt
  simp only [aboveMax, hr, true_and, decide_eq_false_iff_not, not_lt] at h
  rw [BitVec.toNat_add, Nat.mod_eq_of_lt (by omega)]
  exact ⟨rfl, h⟩

end Sys2Proof.Machine
end

