-- ==== Sys2Proof/Laws/Exchange.lean ====
section
/-! SUPPORT. The exchange: what each micro-step, each transmission and the whole loop can do, said once
(42_exchange_retry.md R230 to R239). -/

namespace Sys2Proof.Machine

/-! ### What no exchange touches -/

/-- The fields that no part of an exchange writes after its request is encoded. -/
structure Kept (s t : State) : Prop where
  acc8 : t.acc8 = s.acc8
  crc : t.crc = s.crc
  accx : t.accx = s.accx
  txbuf : t.txbuf = s.txbuf
  txLen : t.txLen = s.txLen
  lastErr : t.lastErr = s.lastErr
  stopPoll : t.stopPoll = s.stopPoll
  maxSum : t.maxSum = s.maxSum
  rejectAboveMax : t.rejectAboveMax = s.rejectAboveMax
  hasDbError : t.hasDbError = s.hasDbError
  lastEscTime : t.lastEscTime = s.lastEscTime
  evq : t.evq = s.evq
  params : t.params = s.params
  result : t.result = s.result
  pending : t.pending = s.pending
  openScript : t.openScript = s.openScript

theorem Kept.refl (s : State) : Kept s s := by constructor <;> rfl

theorem Kept.trans {s t u : State} (h : Kept s t) (k : Kept t u) : Kept s u :=
  ⟨k.acc8.trans h.acc8, k.crc.trans h.crc, k.accx.trans h.accx, k.txbuf.trans h.txbuf, k.txLen.trans h.txLen,
    k.lastErr.trans h.lastErr, k.stopPoll.trans h.stopPoll, k.maxSum.trans h.maxSum,
    k.rejectAboveMax.trans h.rejectAboveMax, k.hasDbError.trans h.hasDbError,
    k.lastEscTime.trans h.lastEscTime, k.evq.trans h.evq, k.params.trans h.params, k.result.trans h.result,
    k.pending.trans h.pending, k.openScript.trans h.openScript⟩

/-- The session and escrow registers, which an exchange writes only by tearing the session down. -/
structure SameSession (s t : State) : Prop where
  sesState : t.sesState = s.sesState
  portOpen : t.portOpen = s.portOpen
  devAvail : t.devAvail = s.devAvail
  accSum : t.accSum = s.accSum
  fSumOvf : t.fSumOvf = s.fSumOvf
  escPrev : t.escPrev = s.escPrev
  escrowed : t.escrowed = s.escrowed
  lastCmd : t.lastCmd = s.lastCmd
  pendAcc : t.pendAcc = s.pendAcc

theorem SameSession.refl (s : State) : SameSession s s := by constructor <;> rfl

theorem SameSession.trans {s t u : State} (h : SameSession s t) (k : SameSession t u) : SameSession s u :=
  ⟨k.sesState.trans h.sesState, k.portOpen.trans h.portOpen, k.devAvail.trans h.devAvail,
    k.accSum.trans h.accSum, k.fSumOvf.trans h.fSumOvf, k.escPrev.trans h.escPrev,
    k.escrowed.trans h.escrowed, k.lastCmd.trans h.lastCmd, k.pendAcc.trans h.pendAcc⟩

/-- The session as `teardown()` leaves it (42_exchange_retry.md R239). -/
structure TornDown (t : State) : Prop where
  sesState : t.sesState = .closed
  portOpen : t.portOpen = false
  devAvail : t.devAvail = false
  line : t.serialRx = []
  esc : EscCleared t

/-! ### The micro-steps -/

/-- Write, when the port accepts the bytes (42_exchange_retry.md R231). -/
theorem writePhase_ok {f : Bytes} {s : State} (h : s.writeAnswer = true) :
    ∃ t, writePhase f s = .ok t ∧ Kept s t ∧ SameSession s t ∧ t.serialTx = s.serialTx ++ f ∧
      t.ebdAck = s.ebdAck ∧ t.nakCnt = s.nakCnt ∧ t.errCnt = s.errCnt ∧
      t.fNakExh = s.fNakExh ∧ t.fErrExh = s.fErrExh ∧ t.rxbuf = s.rxbuf ∧ t.rxLen = s.rxLen ∧
      t.serialRx = s.serialRx ∧ t.readScript = s.readScript ∧ t.writeScript = s.writeScript.tail ∧
      t.portCalls = s.portCalls + 1 ∧ t.rtyState = .read ∧ t.fExt = s.fExt ∧ t.fResync = s.fResync := by
  have hw : (s.traced .tx f).writeAnswer = true := by simpa [State.writeAnswer] using h
  refine ⟨_, by simp only [writePhase, writePort_eq, hw, if_true]; rfl, ?_, ?_, ?_⟩
  · constructor <;> simp
  · constructor <;> simp
  · simp

/-- Write, when the port fails: the session is torn down, nothing is read (42_exchange_retry.md R239). -/
theorem writePhase_error {f : Bytes} {s : State} (h : s.writeAnswer = false) :
    ∃ t, writePhase f s = .error (t, .failed .portError) ∧ Kept s t ∧ TornDown t ∧
      t.serialTx = s.serialTx ++ f.take (Config.portWriteReached s.portCalls) ∧
      t.ebdAck = (if s.params.proto = .ebds then !s.ebdAck else s.ebdAck) ∧
      t.nakCnt = s.nakCnt ∧ t.errCnt = s.errCnt ∧
      t.fNakExh = s.fNakExh ∧ t.fErrExh = s.fErrExh ∧ t.rxbuf = s.rxbuf ∧ t.rxLen = s.rxLen ∧
      t.rtyState = .idle ∧ t.fExt = s.fExt ∧ t.fResync = s.fResync := by
  have hw : (s.traced .tx f).writeAnswer = false := by simpa [State.writeAnswer] using h
  refine ⟨_, by simp only [writePhase, writePort_eq, hw]; rfl, ?_, ?_, ?_⟩
  · constructor <;> simp
  · constructor <;> first | rfl | exact ⟨rfl, rfl, rfl, rfl, rfl, rfl⟩
  · simp
    rfl

/-- The bytes one read of an exchange returns (42_exchange_retry.md R230 step 3; 20_memory.md R67). -/
def readBytes (s : State) : Bytes := (s.serialRx ++ s.arrivals s.params.readTimeoutMs).take s.params.rxCap

/-- What a read does whatever it returns (42_exchange_retry.md R232). -/
structure ReadDone (s t : State) : Prop where
  kept : Kept s t
  session : SameSession s t
  serialTx : t.serialTx = s.serialTx
  nakCnt : t.nakCnt = s.nakCnt
  errCnt : t.errCnt = s.errCnt
  fNakExh : t.fNakExh = s.fNakExh
  fErrExh : t.fErrExh = s.fErrExh
  rxbuf : t.rxbuf = Memory.store (readBytes s)
  rxLen : t.rxLen = (readBytes s).length
  line : readBytes s ++ t.serialRx = s.serialRx ++ s.arrivals s.params.readTimeoutMs
  writeScript : t.writeScript = s.writeScript
  readScript : t.readScript = s.readScript.tail
  portCalls : t.portCalls = s.portCalls + 1
  fExt : t.fExt = s.fExt
  fResync : t.fResync = s.fResync

theorem readBytes_length (s : State) : (readBytes s).length ≤ s.params.rxCap := by simp [readBytes]

/-- Read, when bytes came (42_exchange_retry.md R231). -/
theorem readPhase_ok {s : State} (h : readBytes s ≠ []) :
    ∃ t, readPhase s = .ok (t, readBytes s) ∧ ReadDone s t ∧ t.rtyState = .decode ∧ t.ebdAck = s.ebdAck := by
  refine ⟨_, by simp only [readPhase, State.readPort]; exact if_neg h, ?_, ?_⟩
  · constructor <;> first | (constructor <;> simp) | simp [readBytes]
  · simp

/-- Read, when none came: the exchange times out (42_exchange_retry.md R234). -/
theorem readPhase_error {s : State} (h : readBytes s = []) :
    ∃ t, readPhase s = .error (t, .failed .timeout) ∧ ReadDone s t ∧ t.rtyState = .idle ∧
      t.ebdAck = if s.params.proto = .ebds then !s.ebdAck else s.ebdAck := by
  refine ⟨_, by simp only [readPhase, State.readPort]; exact if_pos h, ?_, ?_⟩
  · constructor <;> first | (constructor <;> simp) | simp [readBytes]
  · simp

/-- The state after the decode of a reply: the flag of the family's decoder is written, nothing else
(41_framers.md R161). -/
def decoded (ack : Bool) (rx : Bytes) (s : State) : State :=
  { s with
    fResync := if s.params.proto = .ccnet then resyncFlag (ccnDecode s.params s.params.ccnAddr rx) else s.fResync
    fExt := if s.params.proto = .ebds then extFlag (ebdDecode s.params ack rx) else s.fExt }

theorem decodeReply_state (ack : Bool) (rx : Bytes) (s : State) : (decodeReply ack rx s).1 = decoded ack rx s := by
  unfold decodeReply decoded
  cases h : s.params.proto <;> simp

/-- The verdict on a reply depends on the parameters only. -/
def verdict (p : Params) (ack : Bool) (rx : Bytes) : Except DecErr Reply :=
  match p.proto with
  | .cctalk => (cctDecode p.cctHostAddr rx).map fun (src, cmd, payload) => .cct src cmd payload
  | .ccnet =>
    match ccnDecode p p.ccnAddr rx with
    | .frame cmd payload offset => .ok (.ccn cmd payload offset)
    | .wrongAddress _ => .error .address
    | .failed e => .error e
  | .ebds => (ebdDecode p ack rx).map fun (cmd, payload, _) => .ebd cmd payload
  | .wdg => if wdgCheck rx then .ok .wdg else .error .address
  | .at =>
    match atDecode rx with
    | some (cls, term, info, body) => .ok (.at cls term info body)
    | none => .error .length

theorem decodeReply_verdict (ack : Bool) (rx : Bytes) (s : State) :
    (decodeReply ack rx s).2 = verdict s.params ack rx := by
  unfold decodeReply verdict
  cases h : s.params.proto <;> rfl

/-- The kinds of reply: an error, a NAK/BUSY, an answer (42_exchange_retry.md R233). -/
inductive Kind where
  | error (e : DecErr)
  | nakBusy
  | answer (r : Reply)
deriving DecidableEq, Repr

/-- The kind of a reply (42_exchange_retry.md R233). -/
def kindOf (p : Params) (ack : Bool) (rx : Bytes) : Kind :=
  match verdict p ack rx with
  | .error e => .error e
  | .ok r => if nakBusy p r then .nakBusy else .answer r

/-- What a decode micro-step does whatever the reply is. -/
structure DecodeDone (ack : Bool) (rx : Bytes) (s t : State) : Prop where
  kept : Kept s t
  session : SameSession s t
  serialTx : t.serialTx = s.serialTx
  serialRx : t.serialRx = s.serialRx
  rxbuf : t.rxbuf = s.rxbuf
  rxLen : t.rxLen = s.rxLen
  writeScript : t.writeScript = s.writeScript
  readScript : t.readScript = s.readScript
  portCalls : t.portCalls = s.portCalls
  trace : t.trace = s.trace
  fResync : t.fResync =
    if s.params.proto = .ccnet then resyncFlag (ccnDecode s.params s.params.ccnAddr rx) else s.fResync
  fExt : t.fExt = if s.params.proto = .ebds then extFlag (ebdDecode s.params ack rx) else s.fExt

theorem decodePhase_eq (ack : Bool) (rx : Bytes) (s : State) :
    decodePhase ack rx s = classifyReply (verdict s.params ack rx) (decoded ack rx s) := by
  rw [← decodeReply_state, ← decodeReply_verdict]
  rfl

theorem decodeDone_of (ack : Bool) (rx : Bytes) (s : State) (a : Bool) (r : RtyState) (n e : Byte) (x y : Bool) :
    DecodeDone ack rx s
      { decoded ack rx s with
        ebdAck := a, rtyState := r, nakCnt := n, errCnt := e, fNakExh := x, fErrExh := y } := by
  constructor <;> first | rfl | (constructor <;> rfl)

/-- The micro-step Decode on an answer (42_exchange_retry.md R231). -/
theorem decodePhase_answer {ack : Bool} {rx : Bytes} {s : State} {r : Reply}
    (h : kindOf s.params ack rx = .answer r) :
    ∃ t, decodePhase ack rx s = .ended t (.answer r) ∧ DecodeDone ack rx s t ∧ t.rtyState = .idle ∧
      t.nakCnt = s.nakCnt ∧ t.errCnt = s.errCnt ∧ t.fNakExh = s.fNakExh ∧ t.fErrExh = s.fErrExh ∧
      t.ebdAck = if s.params.proto = .ebds then !s.ebdAck else s.ebdAck := by
  rw [decodePhase_eq]
  unfold kindOf at h
  cases hv : verdict s.params ack rx with
  | error e => simp [hv] at h
  | ok r' =>
    by_cases hn : nakBusy s.params r' = true
    · simp [hv, hn] at h
    · simp only [hv, hn, Bool.false_eq_true, if_false, Kind.answer.injEq] at h
      subst h
      refine ⟨(decoded ack rx s).finishExchange, ?_, decodeDone_of .., rfl, rfl, rfl, rfl, rfl, rfl⟩
      simp only [classifyReply]
      exact if_neg hn

/-- The micro-step Decode on NAK/BUSY (42_exchange_retry.md R231, R235). -/
theorem decodePhase_nak {ack : Bool} {rx : Bytes} {s : State}
    (h : kindOf s.params ack rx = .nakBusy) :
    ∃ t, DecodeDone ack rx s t ∧ t.nakCnt = s.nakCnt + 1 ∧ t.errCnt = s.errCnt ∧ t.fErrExh = s.fErrExh ∧
      ((s.nakCnt.toNat + 1 < maxNak s.params ∧ decodePhase ack rx s = .again t .nakBusy ∧
          t.rtyState = .write ∧ t.ebdAck = s.ebdAck ∧ t.fNakExh = s.fNakExh) ∨
        (maxNak s.params ≤ s.nakCnt.toNat + 1 ∧
          decodePhase ack rx s = .ended t (.failed (.exhausted .nakBusy)) ∧ t.rtyState = .idle ∧
          t.fNakExh = true ∧ t.ebdAck = if s.params.proto = .ebds then !s.ebdAck else s.ebdAck)) := by
  rw [decodePhase_eq]
  unfold kindOf at h
  cases hv : verdict s.params ack rx with
  | error e => simp [hv] at h
  | ok r' =>
    by_cases hn : nakBusy s.params r' = true
    swap
    · simp [hv, hn] at h
    · by_cases hb : s.nakCnt.toNat + 1 < maxNak s.params
      · refine ⟨{ decoded ack rx s with nakCnt := s.nakCnt + 1, rtyState := .write },
          decodeDone_of .., rfl, rfl, rfl, Or.inl ⟨hb, ?_, rfl, rfl, rfl⟩⟩
        simp only [classifyReply]
        exact (if_pos hn).trans (if_neg (by simpa [decoded] using hb))
      · refine ⟨{ decoded ack rx s with nakCnt := s.nakCnt + 1, fNakExh := true }.finishExchange,
          decodeDone_of .., rfl, rfl, rfl, Or.inr ⟨by omega, ?_, rfl, rfl, rfl⟩⟩
        simp only [classifyReply]
        exact (if_pos hn).trans (if_pos (by simpa [decoded] using hb))

/-- The micro-step Decode on a checksum-class error (42_exchange_retry.md R231, R236). -/
theorem decodePhase_error {ack : Bool} {rx : Bytes} {s : State} {e : DecErr}
    (h : kindOf s.params ack rx = .error e) :
    ∃ t, DecodeDone ack rx s t ∧ t.errCnt = s.errCnt + 1 ∧ t.nakCnt = s.nakCnt ∧ t.fNakExh = s.fNakExh ∧
      ((s.errCnt.toNat + 1 < maxErr s.params ∧ decodePhase ack rx s = .again t (.error e) ∧
          t.rtyState = .write ∧ t.ebdAck = s.ebdAck ∧ t.fErrExh = s.fErrExh) ∨
        (maxErr s.params ≤ s.errCnt.toNat + 1 ∧
          decodePhase ack rx s = .ended t (.failed (.exhausted (.error e))) ∧ t.rtyState = .idle ∧
          t.fErrExh = true ∧ t.ebdAck = if s.params.proto = .ebds then !s.ebdAck else s.ebdAck)) := by
  rw [decodePhase_eq]
  unfold kindOf at h
  cases hv : verdict s.params ack rx with
  | ok r' =>
    by_cases hn : nakBusy s.params r' = true <;> simp [hv, hn] at h
  | error e' =>
    simp only [hv, Kind.error.injEq] at h
    subst h
    by_cases hb : s.errCnt.toNat + 1 < maxErr s.params
    · refine ⟨{ decoded ack rx s with errCnt := s.errCnt + 1, rtyState := .write },
        decodeDone_of .., rfl, rfl, rfl, Or.inl ⟨hb, ?_, rfl, rfl, rfl⟩⟩
      simp only [classifyReply]
      exact if_neg (by simpa [decoded] using hb)
    · refine ⟨{ decoded ack rx s with errCnt := s.errCnt + 1, fErrExh := true }.finishExchange,
        decodeDone_of .., rfl, rfl, rfl, Or.inr ⟨by omega, ?_, rfl, rfl, rfl⟩⟩
      simp only [classifyReply]
      exact if_pos (by simpa [decoded] using hb)

/-! ### One transmission -/

/-- The bytes the read of the next transmission returns. -/
def replyBytes (s : State) : Bytes := readBytes { s with portCalls := s.portCalls + 1 }

theorem replyBytes_length (s : State) : (replyBytes s).length ≤ s.params.rxCap := readBytes_length _

theorem readBytes_after_write {s t : State} (hk : Kept s t) (h1 : t.serialRx = s.serialRx)
    (h2 : t.readScript = s.readScript) (h3 : t.portCalls = s.portCalls + 1) : readBytes t = replyBytes s := by
  simp [readBytes, replyBytes, State.arrivals, hk.params, h1, h2, h3]

/-- What a transmission whose write succeeded does, whatever the reply. -/
structure Sent (f : Bytes) (s t : State) : Prop where
  kept : Kept s t
  session : SameSession s t
  serialTx : t.serialTx = s.serialTx ++ f
  rxbuf : t.rxbuf = Memory.store (replyBytes s)
  rxLen : t.rxLen = (replyBytes s).length
  line : replyBytes s ++ t.serialRx =
    s.serialRx ++ { s with portCalls := s.portCalls + 1 }.arrivals s.params.readTimeoutMs
  writeScript : t.writeScript = s.writeScript.tail
  readScript : t.readScript = s.readScript.tail
  portCalls : t.portCalls = s.portCalls + 2

/-- The alternating bit after `finish()` (42_exchange_retry.md R238). -/
def toggled (s : State) : Bool := if s.params.proto = .ebds then !s.ebdAck else s.ebdAck

/-- A transmission whose write failed (42_exchange_retry.md R239). -/
theorem attempt_portError {f : Bytes} {ack : Bool} {s : State} (h : s.writeAnswer = false) :
    ∃ t, attempt f ack s = .ended t (.failed .portError) ∧ Kept s t ∧ TornDown t ∧
      t.serialTx = s.serialTx ++ f.take (Config.portWriteReached s.portCalls) ∧ t.ebdAck = toggled s ∧
      t.nakCnt = s.nakCnt ∧ t.errCnt = s.errCnt ∧ t.fNakExh = s.fNakExh ∧ t.fErrExh = s.fErrExh ∧
      t.rxbuf = s.rxbuf ∧ t.rxLen = s.rxLen ∧ t.rtyState = .idle ∧ t.fExt = s.fExt ∧ t.fResync = s.fResync := by
  obtain ⟨t, hw, rest⟩ := writePhase_error (f := f) h
  exact ⟨t, by simp [attempt, hw], rest⟩

/-- A transmission that got no byte back (42_exchange_retry.md R234). -/
theorem attempt_timeout {f : Bytes} {ack : Bool} {s : State} (h : s.writeAnswer = true) (hr : replyBytes s = []) :
    ∃ t, attempt f ack s = .ended t (.failed .timeout) ∧ Sent f s t ∧ t.rtyState = .idle ∧
      t.ebdAck = toggled s ∧ t.nakCnt = s.nakCnt ∧ t.errCnt = s.errCnt ∧
      t.fNakExh = s.fNakExh ∧ t.fErrExh = s.fErrExh ∧ t.fExt = s.fExt ∧ t.fResync = s.fResync := by
  obtain ⟨a, hw, ka, sa, tx, ea, na, ca, xa, ya, -, -, la, ra, wa, pa, -, fa, ga⟩ := writePhase_ok (f := f) h
  have hb : readBytes a = replyBytes s := readBytes_after_write ka la ra pa
  obtain ⟨t, ht, d, rt, eb⟩ := readPhase_error (s := a) (by rw [hb, hr])
  refine ⟨t, by simp [attempt, hw, ht], ⟨ka.trans d.kept, sa.trans d.session, by rw [d.serialTx, tx],
    by rw [d.rxbuf, hb], by rw [d.rxLen, hb], ?_, by rw [d.writeScript, wa], by rw [d.readScript, ra],
    by rw [d.portCalls, pa]⟩, rt, ?_, by rw [d.nakCnt, na], by rw [d.errCnt, ca], by rw [d.fNakExh, xa],
    by rw [d.fErrExh, ya], by rw [d.fExt, fa], by rw [d.fResync, ga]⟩
  · rw [← hb, d.line, la, ka.params]
    simp [State.arrivals, ra, pa]
  · rw [eb, ea, ka.params]
    rfl

/-- The state just before the decode of a transmission's reply. -/
theorem attempt_received {f : Bytes} {ack : Bool} {s : State} (h : s.writeAnswer = true) (hr : replyBytes s ≠ []) :
    ∃ a, attempt f ack s = decodePhase ack (replyBytes s) a ∧ Sent f s a ∧ a.ebdAck = s.ebdAck ∧
      a.nakCnt = s.nakCnt ∧ a.errCnt = s.errCnt ∧ a.fNakExh = s.fNakExh ∧ a.fErrExh = s.fErrExh ∧
      a.fExt = s.fExt ∧ a.fResync = s.fResync := by
  obtain ⟨a, hw, ka, sa, tx, ea, na, ca, xa, ya, -, -, la, ra, wa, pa, -, fa, ga⟩ := writePhase_ok (f := f) h
  have hb : readBytes a = replyBytes s := readBytes_after_write ka la ra pa
  obtain ⟨t, ht, d, rt, eb⟩ := readPhase_ok (s := a) (by rw [hb]; exact hr)
  rw [hb] at ht
  refine ⟨t, by simp [attempt, hw, ht], ⟨ka.trans d.kept, sa.trans d.session, by rw [d.serialTx, tx],
    by rw [d.rxbuf, hb], by rw [d.rxLen, hb], ?_, by rw [d.writeScript, wa], by rw [d.readScript, ra],
    by rw [d.portCalls, pa]⟩, by rw [eb, ea], by rw [d.nakCnt, na], by rw [d.errCnt, ca], by rw [d.fNakExh, xa],
    by rw [d.fErrExh, ya], by rw [d.fExt, fa], by rw [d.fResync, ga]⟩
  rw [← hb, d.line, la, ka.params]
  simp [State.arrivals, ra, pa]

theorem Sent.decode {f : Bytes} {ack : Bool} {rx : Bytes} {s a t : State} (h : Sent f s a)
    (d : DecodeDone ack rx a t) : Sent f s t :=
  ⟨h.kept.trans d.kept, h.session.trans d.session, by rw [d.serialTx, h.serialTx], by rw [d.rxbuf, h.rxbuf],
    by rw [d.rxLen, h.rxLen], by rw [d.serialRx, h.line], by rw [d.writeScript, h.writeScript],
    by rw [d.readScript, h.readScript], by rw [d.portCalls, h.portCalls]⟩

/-- A transmission that was answered (42_exchange_retry.md R233). -/
theorem attempt_answer {f : Bytes} {ack : Bool} {s : State} {r : Reply} (h : s.writeAnswer = true)
    (hr : replyBytes s ≠ []) (hk : kindOf s.params ack (replyBytes s) = .answer r) :
    ∃ t, attempt f ack s = .ended t (.answer r) ∧ Sent f s t ∧ t.rtyState = .idle ∧ t.ebdAck = toggled s ∧
      t.nakCnt = s.nakCnt ∧ t.errCnt = s.errCnt ∧ t.fNakExh = s.fNakExh ∧ t.fErrExh = s.fErrExh := by
  obtain ⟨a, ha, sa, ea, na, ca, xa, ya, -, -⟩ := attempt_received (f := f) (ack := ack) h hr
  rw [← sa.kept.params] at hk
  obtain ⟨t, ht, d, rt, nt, ct, xt, yt, et⟩ := decodePhase_answer hk
  exact ⟨t, ha.trans ht, sa.decode d, rt, by rw [et, ea, sa.kept.params]; rfl, nt.trans na, ct.trans ca,
    xt.trans xa, yt.trans ya⟩

/-- A transmission answered with NAK/BUSY (42_exchange_retry.md R235). -/
theorem attempt_nak {f : Bytes} {ack : Bool} {s : State} (h : s.writeAnswer = true)
    (hr : replyBytes s ≠ []) (hk : kindOf s.params ack (replyBytes s) = .nakBusy) :
    ∃ t, Sent f s t ∧ t.nakCnt = s.nakCnt + 1 ∧ t.errCnt = s.errCnt ∧ t.fErrExh = s.fErrExh ∧
      ((s.nakCnt.toNat + 1 < maxNak s.params ∧ attempt f ack s = .again t .nakBusy ∧ t.rtyState = .write ∧
          t.ebdAck = s.ebdAck ∧ t.fNakExh = s.fNakExh) ∨
        (maxNak s.params ≤ s.nakCnt.toNat + 1 ∧ attempt f ack s = .ended t (.failed (.exhausted .nakBusy)) ∧
          t.rtyState = .idle ∧ t.fNakExh = true ∧ t.ebdAck = toggled s)) := by
  obtain ⟨a, ha, sa, ea, na, ca, xa, ya, -, -⟩ := attempt_received (f := f) (ack := ack) h hr
  rw [← sa.kept.params] at hk
  obtain ⟨t, d, nt, ct, yt, hc⟩ := decodePhase_nak hk
  refine ⟨t, sa.decode d, by rw [nt, na], by rw [ct, ca], by rw [yt, ya], ?_⟩
  rw [na, sa.kept.params, ea, xa] at hc
  rcases hc with ⟨hb, hd, rt, et, xt⟩ | ⟨hb, hd, rt, xt, et⟩
  · exact Or.inl ⟨hb, ha.trans hd, rt, et, xt⟩
  · exact Or.inr ⟨hb, ha.trans hd, rt, xt, et⟩

/-- A transmission answered with bytes that fail to decode (42_exchange_retry.md R236). -/
theorem attempt_error {f : Bytes} {ack : Bool} {s : State} {e : DecErr} (h : s.writeAnswer = true)
    (hr : replyBytes s ≠ []) (hk : kindOf s.params ack (replyBytes s) = .error e) :
    ∃ t, Sent f s t ∧ t.errCnt = s.errCnt + 1 ∧ t.nakCnt = s.nakCnt ∧ t.fNakExh = s.fNakExh ∧
      ((s.errCnt.toNat + 1 < maxErr s.params ∧ attempt f ack s = .again t (.error e) ∧ t.rtyState = .write ∧
          t.ebdAck = s.ebdAck ∧ t.fErrExh = s.fErrExh) ∨
        (maxErr s.params ≤ s.errCnt.toNat + 1 ∧ attempt f ack s = .ended t (.failed (.exhausted (.error e))) ∧
          t.rtyState = .idle ∧ t.fErrExh = true ∧ t.ebdAck = toggled s)) := by
  obtain ⟨a, ha, sa, ea, na, ca, xa, ya, -, -⟩ := attempt_received (f := f) (ack := ack) h hr
  rw [← sa.kept.params] at hk
  obtain ⟨t, d, ct, nt, xt, hc⟩ := decodePhase_error hk
  refine ⟨t, sa.decode d, by rw [ct, ca], by rw [nt, na], by rw [xt, xa], ?_⟩
  rw [ca, sa.kept.params, ea, ya] at hc
  rcases hc with ⟨hb, hd, rt, et, yt⟩ | ⟨hb, hd, rt, yt, et⟩
  · exact Or.inl ⟨hb, ha.trans hd, rt, et, yt⟩
  · exact Or.inr ⟨hb, ha.trans hd, rt, yt, et⟩

end Sys2Proof.Machine
end

