-- ==== Sys2Proof/Laws/Frames.lean ====
section
/-! SUPPORT. Each decoder on a frame of its family, and what a decoder's success says of the bytes it read
(41_framers.md R163, R178, R192, R205). -/

namespace Sys2Proof.Machine

/-! ### cctalk -/

theorem cctFrame_length (d s c : Byte) (p : Bytes) : (cctFrame d s c p).length = p.length + 5 := by
  simp [cctFrame]

theorem append_getLastD {α : Type} (xs : List α) (x d : α) : (xs ++ [x]).getLastD d = x := by
  simp [List.getLastD_eq_getLast?]

/-- FRM.CCT.DEC on a cctalk frame addressed to the expected address (41_framers.md R166). -/
theorem cctDecode_frame (d s c : Byte) (p : Bytes) (h : p.length ≤ 255) :
    cctDecode d (cctFrame d s c p) = .ok (s, c, p) := by
  obtain ⟨x, xs, hx⟩ : ∃ x xs, p ++ [sum8 ([d, BitVec.ofNat 8 p.length, s, c] ++ p)] = x :: xs := by
    cases p with
    | nil => exact ⟨_, _, rfl⟩
    | cons y ys => exact ⟨_, _, rfl⟩
  have hf : cctFrame d s c p = d :: BitVec.ofNat 8 p.length :: s :: c :: x :: xs := by
    rw [← hx]; simp [cctFrame]
  have hlen : (cctFrame d s c p).length = p.length + 5 := cctFrame_length d s c p
  have hdl : (cctFrame d s c p).dropLast = [d, BitVec.ofNat 8 p.length, s, c] ++ p := by
    rw [cctFrame]
    exact List.dropLast_concat
  rw [hf] at hlen hdl ⊢
  simp only [cctDecode]
  rw [if_neg (by simp), if_neg (by rw [hlen]; simp; omega), hdl, ← hx, append_getLastD, if_neg (by simp),
    List.dropLast_concat]

/-- What an accepted cctalk buffer looks like. -/
theorem cctDecode_ok {d s c : Byte} {rx p : Bytes} (h : cctDecode d rx = .ok (s, c, p)) :
    rx = cctFrame d s c p ∧ p.length ≤ 255 := by
  unfold cctDecode at h
  split at h
  · rename_i d' len s' c' x rest
    split at h
    · cases h
    rename_i hd
    split at h
    · cases h
    rename_i hl
    split at h
    · cases h
    rename_i hc
    cases h
    simp only [ne_eq, not_not] at hd hl hc
    subst hd
    have hne : x :: rest ≠ [] := by simp
    have hsplit := List.dropLast_append_getLast hne
    have hlast : (x :: rest).getLastD 0 = (x :: rest).getLast hne := by
      rw [List.getLastD_eq_getLast?, List.getLast?_eq_some_getLast hne]; rfl
    have hpl : (x :: rest).dropLast.length = len.toNat := by simp at hl ⊢; omega
    have hb : BitVec.ofNat 8 (x :: rest).dropLast.length = len := by
      rw [hpl]; simp
    have hdl : (d' :: len :: s :: c :: x :: rest).dropLast = [d', len, s, c] ++ (x :: rest).dropLast := by
      simp [List.dropLast]
    refine ⟨?_, by rw [hpl]; exact Nat.le_of_lt_succ len.isLt⟩
    rw [hlast, hdl] at hc
    rw [cctFrame, hb, hc]
    simp only [List.cons_append, List.nil_append, hsplit]
  · cases h

/-! ### EBDS -/

theorem ebdFrame_length (p : Params) (ctl : Byte) (data : Bytes) : (ebdFrame p ctl data).length = data.length + 5 := by
  simp [ebdFrame]

/-- The checks (a) to (e) on an EBDS frame (41_framers.md R198). -/
theorem ebdParse_frame (p : Params) (ctl : Byte) (data : Bytes) (h : data.length ≤ 250) :
    ebdParse p (ebdFrame p ctl data) = .ok (ctl, data) := by
  obtain ⟨x, y, ys, hx⟩ : ∃ x y ys, data ++ [ebdPostfix] ++
      [ebdCheck p ([BitVec.ofNat 8 (data.length + 5), ctl] ++ data ++ [ebdPostfix])] = x :: y :: ys := by
    match data with
    | [] => exact ⟨_, _, _, rfl⟩
    | [a] => exact ⟨_, _, _, rfl⟩
    | a :: b :: r => exact ⟨_, _, _, rfl⟩
  have hf : ebdFrame p ctl data = ebdPrefix :: BitVec.ofNat 8 (data.length + 5) :: ctl :: x :: y :: ys := by
    rw [← hx]; simp [ebdFrame]
  have hlen := ebdFrame_length p ctl data
  rw [hf] at hlen ⊢
  have hbody : (x :: y :: ys).dropLast = data ++ [ebdPostfix] := by rw [← hx, List.dropLast_concat]
  have hlast : (y :: ys).getLastD 0 =
      ebdCheck p ([BitVec.ofNat 8 (data.length + 5), ctl] ++ data ++ [ebdPostfix]) := by
    have := append_getLastD (data ++ [ebdPostfix])
      (ebdCheck p ([BitVec.ofNat 8 (data.length + 5), ctl] ++ data ++ [ebdPostfix])) 0
    rw [hx] at this
    simpa [List.getLastD_eq_getLast?] using this
  simp only [ebdParse, hbody]
  rw [if_neg (by simp), if_neg (by rw [hlen]; simp; omega), append_getLastD, if_neg (by simp), hlast,
    if_neg (by simp), List.dropLast_concat]

/-- What an accepted EBDS buffer looks like. -/
theorem ebdParse_ok {p : Params} {rx data : Bytes} {ctl : Byte} (h : ebdParse p rx = .ok (ctl, data)) :
    rx = ebdFrame p ctl data ∧ data.length ≤ 250 := by
  unfold ebdParse at h
  split at h
  · rename_i pre len ctl' x y rest
    dsimp only at h
    split at h
    · cases h
    rename_i h1
    split at h
    · cases h
    rename_i h2
    split at h
    · cases h
    rename_i h3
    split at h
    · cases h
    rename_i h4
    cases h
    simp only [ne_eq, not_not] at h1 h2 h3 h4
    subst h1
    have hne : y :: rest ≠ [] := by simp
    have hb : (x :: y :: rest).dropLast ≠ [] := by simp [List.dropLast]
    have e1 := List.dropLast_append_getLast hb
    have e2 : (x :: y :: rest).dropLast.getLast hb = ebdPostfix := by
      rw [← h3, List.getLastD_eq_getLast?, List.getLast?_eq_some_getLast hb]; rfl
    rw [e2] at e1
    have e3 : (x :: y :: rest).dropLast ++ [(y :: rest).getLastD 0] = x :: y :: rest := by
      have := List.dropLast_append_getLast hne
      rw [List.getLastD_eq_getLast?, List.getLast?_eq_some_getLast hne]
      simpa [List.dropLast] using this
    have hl : (x :: y :: rest).dropLast.dropLast.length + 5 = len.toNat := by
      rw [h2]; simp
    have hlen : BitVec.ofNat 8 ((x :: y :: rest).dropLast.dropLast.length + 5) = len := by rw [hl]; simp
    refine ⟨?_, by have := len.isLt; omega⟩
    unfold ebdFrame
    simp only [hlen, List.append_assoc, e1]
    simp only [List.cons_append, List.nil_append] at h4 ⊢
    rw [h4, e3]
  · cases h

/-! ### CCNET -/

theorem ccnFrame_length (p : Params) (a c : Byte) (bs : Bytes) : (ccnFrame p a c bs).length = bs.length + 6 := by
  simp [ccnFrame]

/-- The candidate at the head of a CCNET frame is the whole frame, whatever follows it (41_framers.md R187). -/
theorem ccnCandidate_frame (p : Params) (a c : Byte) (bs tail : Bytes) (h : bs.length ≤ 249) :
    ccnCandidate p (ccnFrame p a c bs ++ tail) = .valid a c bs := by
  have hl : (BitVec.ofNat 8 (bs.length + 6)).toNat = bs.length + 6 := by simp; omega
  have hf : ccnFrame p a c bs ++ tail = syncByte :: a :: BitVec.ofNat 8 (bs.length + 6) :: c :: (bs ++
      (loByte (instanceCrc p ([syncByte, a, BitVec.ofNat 8 (bs.length + 6), c] ++ bs)) ::
       hiByte (instanceCrc p ([syncByte, a, BitVec.ofNat 8 (bs.length + 6), c] ++ bs)) :: tail)) := by
    simp [ccnFrame]
  rw [hf]
  simp only [ccnCandidate, hl]
  rw [if_pos ⟨trivial, by omega, by simp⟩]
  have h4 : bs.length + 6 - 2 = bs.length + 4 := by omega
  have hd : List.drop (bs.length + 6 - 2) (syncByte :: a :: BitVec.ofNat 8 (bs.length + 6) :: c :: (bs ++
      (loByte (instanceCrc p ([syncByte, a, BitVec.ofNat 8 (bs.length + 6), c] ++ bs)) ::
       hiByte (instanceCrc p ([syncByte, a, BitVec.ofNat 8 (bs.length + 6), c] ++ bs)) :: tail))) =
      (loByte (instanceCrc p ([syncByte, a, BitVec.ofNat 8 (bs.length + 6), c] ++ bs)) ::
       hiByte (instanceCrc p ([syncByte, a, BitVec.ofNat 8 (bs.length + 6), c] ++ bs)) :: tail) := by
    rw [h4]
    simp
  have ht : List.take (bs.length + 6 - 2) (syncByte :: a :: BitVec.ofNat 8 (bs.length + 6) :: c :: (bs ++
      (loByte (instanceCrc p ([syncByte, a, BitVec.ofNat 8 (bs.length + 6), c] ++ bs)) ::
       hiByte (instanceCrc p ([syncByte, a, BitVec.ofNat 8 (bs.length + 6), c] ++ bs)) :: tail))) =
      [syncByte, a, BitVec.ofNat 8 (bs.length + 6), c] ++ bs := by
    rw [h4]
    simp
  rw [hd, ht]
  simp

/-- FRM.CCN.DEC on a buffer that starts with a CCNET frame (41_framers.md R180, R187). -/
theorem ccnDecode_frame (p : Params) (a c : Byte) (bs tail : Bytes) (h : bs.length ≤ 249) :
    ccnDecode p a (ccnFrame p a c bs ++ tail) = .frame c bs 0 := by
  obtain ⟨x, xs, hx⟩ : ∃ x xs, ccnFrame p a c bs ++ tail = x :: xs := ⟨_, _, rfl⟩
  have hc := ccnCandidate_frame p a c bs tail h
  rw [hx] at hc ⊢
  simp [ccnDecode, ccnScan, hc]

/-- What a checksum-valid candidate looks like. -/
theorem ccnCandidate_valid {p : Params} {a c : Byte} {bs tail : Bytes} (h : ccnCandidate p tail = .valid a c bs) :
    ∃ rest, tail = ccnFrame p a c bs ++ rest ∧ bs.length ≤ 249 := by
  unfold ccnCandidate at h
  split at h
  · rename_i sync addr len cmd rest
    split at h
    · rename_i hs
      obtain ⟨h1, h2, h3⟩ := hs
      split at h
      · rename_i lo hi more hd
        split at h
        · rename_i hc
          cases h
          subst h1
          have hl := len.isLt
          simp only [List.length_cons] at h3
          have hlen : (rest.take (len.toNat - 6)).length = len.toNat - 6 := by
            rw [List.length_take]; omega
          have hlb : BitVec.ofNat 8 ((rest.take (len.toNat - 6)).length + 6) = len := by
            rw [hlen, show len.toNat - 6 + 6 = len.toNat by omega]; simp
          have ht : (syncByte :: a :: len :: c :: rest).take (len.toNat - 2) =
              [syncByte, a, len, c] ++ rest.take (len.toNat - 6) := by
            rw [show len.toNat - 2 = (len.toNat - 6) + 4 by omega]
            rfl
          refine ⟨more, ?_, by omega⟩
          rw [ccnFrame, hlb, ← ht, hc, loByte_ofLoHi, hiByte_ofLoHi]
          have := List.take_append_drop (len.toNat - 2) (syncByte :: a :: len :: c :: rest)
          rw [hd] at this
          rw [List.append_assoc, List.cons_append, List.cons_append, List.nil_append]
          exact this.symm
        · cases h
      · cases h
    · cases h
  · cases h

/-! ### Watchdog and AT -/

theorem wdgDecode_ok {rx : Bytes} {c : Byte} (h : wdgDecode rx = .ok c) : rx = wdgFrame c := by
  unfold wdgDecode at h
  split at h
  · split at h
    · rename_i a b d e heq
      cases h
      rw [wdgFrame, ← heq]
      rfl
    · cases h
  · cases h

@[simp] theorem wdgDecode_frame (c : Byte) : wdgDecode (wdgFrame c) = .ok c := by
  simp [wdgFrame, wdgHeader, wdgDecode]

/-! ### The ACK bit and the round trip -/

theorem ackMask_ne_zero (p : Params) : ackMask p ≠ 0 := by
  unfold ackMask
  exact (by decide : ∀ k : Fin 8, (1#8 <<< k.val) ≠ 0) p.ebdAckBit

/-- The control byte of a command without the ACK bit: the bit is the one put in, and clearing it gives the command back
(30_encoding.md R99). -/
theorem ackOf_ctlByte {p : Params} {cmd : Byte} (ack : Bool) (h : cmd &&& ackMask p = 0) :
    ackOf p (ctlByte p cmd ack) = ack := by
  cases ack
  · simp [ackOf, ctlByte, h]
  · have hm : (cmd ||| ackMask p) &&& ackMask p = ackMask p := by
      ext i hi; simp +contextual
    have hz : ¬ ackMask p = 0#8 := ackMask_ne_zero p
    simp [ackOf, ctlByte, hm, hz]

theorem ctlByte_command {p : Params} {cmd : Byte} (ack : Bool) (h : cmd &&& ackMask p = 0) :
    ctlByte p cmd ack &&& ~~~ackMask p = cmd := by
  ext i hi
  have hb : cmd[i] = true → (ackMask p)[i] = false := fun hc => by
    have := congrArg (·.getLsbD i) h
    simpa [BitVec.getLsbD_eq_getElem hi, hc] using this
  cases ack
  · simpa [ctlByte] using hb
  · cases hc : cmd[i] <;> simp_all [ctlByte]

/-- FRM.EBD.DEC on the frame of FRM.EBD.ENC, with the ACK bit it was built with (41_framers.md R196, R198). -/
theorem ebdDecode_frame {p : Params} {cmd : Byte} {payload : Bytes} (ack : Bool) (h : payload.length ≤ 250)
    (hc : cmd &&& ackMask p = 0) :
    ebdDecode p ack (ebdFrame p (ctlByte p cmd ack) payload) =
      if payload.head? = some ebdMarker then .ok (cmd, payload.tail, true) else .ok (cmd, payload, false) := by
  simp only [ebdDecode, ebdParse_frame p _ payload h, ackOf_ctlByte ack hc, ctlByte_command ack hc, ne_eq,
    not_true_eq_false, if_false]
  cases payload with
  | nil => simp
  | cons m rest => by_cases hm : m = ebdMarker <;> simp [hm]

/-- The frame round trip of all four families (41_framers.md R211). -/
theorem frameRoundTrip (p : Params) : FrameRoundTrip p where
  cctalk dest src cmd payload h hc :=
    ⟨_, if_neg (by omega), cctDecode_frame dest src cmd payload h⟩
  ccnet addr cmd payload h hc :=
    ⟨_, if_neg (by omega), by simpa using ccnDecode_frame p addr cmd payload [] h⟩
  ebds ack cmd payload h hc ha :=
    ⟨ebdFrame p (ctlByte p cmd ack) payload, by simp [ebdEncode, ha]; omega, ebdDecode_frame ack h ha⟩
  watchdog cmd hc := ⟨_, if_neg (by omega), wdgDecode_frame cmd⟩

end Sys2Proof.Machine
end

