-- ==== Sys2Proof/Laws/Loop.lean ====
section
/-! SUPPORT. The loop of an exchange and the exchange as a whole, said once (42_exchange_retry.md R230, R237, R238). -/

namespace Sys2Proof.Machine

/-- The counters are below their bounds, no exhaustion flag is set, and the budget covers what they leave
(42_exchange_retry.md R237). -/
structure Ready (left : Nat) (s : State) : Prop where
  bounds : ParamsBoundsOk s.params
  nak : s.nakCnt.toNat < maxNak s.params
  err : s.errCnt.toNat < maxErr s.params
  fNak : s.fNakExh = false
  fErr : s.fErrExh = false
  budget : (maxNak s.params - 1 - s.nakCnt.toNat) + (maxErr s.params - 1 - s.errCnt.toNat) ≤ left

/-- What the loop of an exchange does, whatever the port answers. -/
structure Finished (f : Bytes) (left : Nat) (s t : State) (e : ExchEnd) : Prop where
  kept : Kept s t
  rty : t.rtyState = .idle
  ack : t.ebdAck = toggled s
  torn : e = .failed .portError → TornDown t
  session : e ≠ .failed .portError → SameSession s t
  rx : (t.rxbuf = s.rxbuf ∧ t.rxLen = s.rxLen) ∨
    ∃ bs : Bytes, bs.length ≤ s.params.rxCap ∧ t.rxbuf = Memory.store bs ∧ t.rxLen = bs.length
  nak : t.nakCnt.toNat ≤ maxNak s.params
  err : t.errCnt.toNat ≤ maxErr s.params
  legal : e ≠ .failed .illegal ∧ e ≠ .failed .sizeError
  byNak : e = .failed (.exhausted .nakBusy) → t.fNakExh = true ∧ t.fErrExh = false ∧ t.nakCnt.toNat = maxNak s.params
  byErr : ∀ d, e = .failed (.exhausted (.error d)) →
    t.fNakExh = false ∧ t.fErrExh = true ∧ t.errCnt.toNat = maxErr s.params
  notExh : (∀ l, e ≠ .failed (.exhausted l)) → t.fNakExh = false ∧ t.fErrExh = false
  sent : ∃ (k : Nat) (part : Bytes), t.serialTx = s.serialTx ++ (List.replicate k f).flatten ++ part ∧ part <+: f ∧
    (e ≠ .failed .portError → part = []) ∧ k ≤ left + 1 ∧ (e = .failed .portError → k ≤ left)

theorem maxNak_le {p : Params} (h : ParamsBoundsOk p) : maxNak p ≤ 255 := by
  unfold maxNak
  split <;> first | exact h.1.2 | decide

theorem maxErr_le {p : Params} (h : ParamsBoundsOk p) : maxErr p ≤ 255 := by
  unfold maxErr
  split <;> first | exact h.2.2 | decide

theorem byte_succ {b : Byte} {n : Nat} (h : b.toNat < n) (hn : n ≤ 255) : (b + 1).toNat = b.toNat + 1 := by
  have : b.toNat < 255 := by omega
  rw [BitVec.toNat_add]
  simp
  omega

theorem Finished.after {f : Bytes} {left : Nat} {s a t : State} {e : ExchEnd} (h : Sent f s a)
    (ha : a.ebdAck = s.ebdAck) (k : Finished f left a t e) : Finished f (left + 1) s t e where
  kept := h.kept.trans k.kept
  rty := k.rty
  ack := by rw [k.ack, toggled, toggled, ha, h.kept.params]
  torn := k.torn
  session he := h.session.trans (k.session he)
  rx := by
    right
    rcases k.rx with ⟨h1, h2⟩ | ⟨bs, h1, h2, h3⟩
    · exact ⟨replyBytes s, replyBytes_length s, by rw [h1, h.rxbuf], by rw [h2, h.rxLen]⟩
    · exact ⟨bs, by rwa [h.kept.params] at h1, h2, h3⟩
  nak := by simpa [h.kept.params] using k.nak
  err := by simpa [h.kept.params] using k.err
  legal := k.legal
  byNak he := by simpa [h.kept.params] using k.byNak he
  byErr d he := by simpa [h.kept.params] using k.byErr d he
  notExh := k.notExh
  sent := by
    obtain ⟨n, part, h1, h2, h3, h4, h5⟩ := k.sent
    refine ⟨n + 1, part, ?_, h2, h3, by omega, fun he => by have := h5 he; omega⟩
    rw [h1, h.serialTx, List.replicate_succ, List.flatten_cons]
    simp

theorem Finished.of_sent {f : Bytes} {left : Nat} {s t : State} {e : ExchEnd} (h : Sent f s t)
    (rty : t.rtyState = .idle) (ack : t.ebdAck = toggled s) (he : e ≠ .failed .portError)
    (nak : t.nakCnt.toNat ≤ maxNak s.params) (err : t.errCnt.toNat ≤ maxErr s.params)
    (legal : e ≠ .failed .illegal ∧ e ≠ .failed .sizeError)
    (byNak : e = .failed (.exhausted .nakBusy) →
      t.fNakExh = true ∧ t.fErrExh = false ∧ t.nakCnt.toNat = maxNak s.params)
    (byErr : ∀ d, e = .failed (.exhausted (.error d)) →
      t.fNakExh = false ∧ t.fErrExh = true ∧ t.errCnt.toNat = maxErr s.params)
    (notExh : (∀ l, e ≠ .failed (.exhausted l)) → t.fNakExh = false ∧ t.fErrExh = false) :
    Finished f left s t e :=
  ⟨h.kept, rty, ack, fun h => absurd h he, fun _ => h.session,
    Or.inr ⟨replyBytes s, replyBytes_length s, h.rxbuf, h.rxLen⟩, nak, err, legal, byNak, byErr, notExh,
    ⟨1, [], by simp [h.serialTx], by simp, fun _ => rfl, by omega, fun h => absurd h he⟩⟩

/-- One transmission either ends the exchange, or leaves it ready for a further one within the budget. -/
theorem attempt_cases (f : Bytes) (ack : Bool) {left : Nat} {s : State} (h : Ready left s) :
    (∃ t e, attempt f ack s = .ended t e ∧ Finished f left s t e) ∨
      (∃ t l left', attempt f ack s = .again t l ∧ left = left' + 1 ∧ Sent f s t ∧ t.ebdAck = s.ebdAck ∧
        Ready left' t) := by
  cases hw : s.writeAnswer with
  | false =>
    obtain ⟨t, ha, k, td, tx, ea, na, ca, xa, ya, rb, rl, rt, -, -⟩ := attempt_portError (f := f) (ack := ack) hw
    refine Or.inl ⟨t, _, ha, k, rt, ea, fun _ => td, fun h => absurd rfl h, Or.inl ⟨rb, rl⟩, ?_, ?_, ?_, ?_, ?_, ?_,
      ⟨0, f.take (Config.portWriteReached s.portCalls), by simp [tx], List.take_prefix _ _,
        fun h => absurd rfl h, by omega, fun _ => by omega⟩⟩
    · rw [na]; exact Nat.le_of_lt h.nak
    · rw [ca]; exact Nat.le_of_lt h.err
    · simp
    · simp
    · simp
    · exact fun _ => ⟨by rw [xa, h.fNak], by rw [ya, h.fErr]⟩
  | true =>
    by_cases hr : replyBytes s = []
    · obtain ⟨t, ha, k, rt, ea, na, ca, xa, ya, -, -⟩ := attempt_timeout (f := f) (ack := ack) hw hr
      refine Or.inl ⟨t, _, ha, .of_sent k rt ea (by simp) ?_ ?_ (by simp) (by simp) (by simp) ?_⟩
      · rw [na]; exact Nat.le_of_lt h.nak
      · rw [ca]; exact Nat.le_of_lt h.err
      · exact fun _ => ⟨by rw [xa, h.fNak], by rw [ya, h.fErr]⟩
    · cases hk : kindOf s.params ack (replyBytes s) with
      | answer r =>
        obtain ⟨t, ha, k, rt, ea, na, ca, xa, ya⟩ := attempt_answer (f := f) hw hr hk
        refine Or.inl ⟨t, _, ha, .of_sent k rt ea (by simp) ?_ ?_ (by simp) (by simp) (by simp) ?_⟩
        · rw [na]; exact Nat.le_of_lt h.nak
        · rw [ca]; exact Nat.le_of_lt h.err
        · exact fun _ => ⟨by rw [xa, h.fNak], by rw [ya, h.fErr]⟩
      | nakBusy =>
        obtain ⟨t, k, na, ca, ya, hc⟩ := attempt_nak (f := f) hw hr hk
        have hs := byte_succ h.nak (maxNak_le h.bounds)
        rcases hc with ⟨hb, ha, -, ea, xa⟩ | ⟨hb, ha, rt, xa, ea⟩
        · have hbud := h.budget
          have hnak := h.nak
          have herr := h.err
          obtain ⟨left', rfl⟩ : ∃ n, left = n + 1 := ⟨left - 1, by omega⟩
          refine Or.inr ⟨t, _, left', ha, rfl, k, ea, ⟨?_, ?_, ?_, ?_, ?_, ?_⟩⟩
          · rw [k.kept.params]; exact h.bounds
          · rw [na, k.kept.params, hs]; exact hb
          · rw [ca, k.kept.params]; exact herr
          · rw [xa, h.fNak]
          · rw [ya, h.fErr]
          · rw [na, ca, k.kept.params, hs]; omega
        · have hn := h.nak
          refine Or.inl ⟨t, _, ha, .of_sent k rt ea (by simp) ?_ ?_ (by simp) (fun _ => ⟨xa, ?_, ?_⟩) (by simp) ?_⟩
          · rw [na, hs]; omega
          · rw [ca]; exact Nat.le_of_lt h.err
          · rw [ya, h.fErr]
          · rw [na, hs]; omega
          · exact fun hh => absurd rfl (hh _)
      | error d =>
        obtain ⟨t, k, ca, na, xa, hc⟩ := attempt_error (f := f) hw hr hk
        have hs := byte_succ h.err (maxErr_le h.bounds)
        rcases hc with ⟨hb, ha, -, ea, ya⟩ | ⟨hb, ha, rt, ya, ea⟩
        · have hbud := h.budget
          have hnak := h.nak
          have herr := h.err
          obtain ⟨left', rfl⟩ : ∃ n, left = n + 1 := ⟨left - 1, by omega⟩
          refine Or.inr ⟨t, _, left', ha, rfl, k, ea, ⟨?_, ?_, ?_, ?_, ?_, ?_⟩⟩
          · rw [k.kept.params]; exact h.bounds
          · rw [na, k.kept.params]; exact hnak
          · rw [ca, k.kept.params, hs]; exact hb
          · rw [xa, h.fNak]
          · rw [ya, h.fErr]
          · rw [na, ca, k.kept.params, hs]; omega
        · have hn := h.err
          refine Or.inl ⟨t, _, ha, .of_sent k rt ea (by simp) ?_ ?_ (by simp) (by simp) (fun _ _ => ⟨?_, ya, ?_⟩) ?_⟩
          · rw [na]; exact Nat.le_of_lt h.nak
          · rw [ca, hs]; omega
          · rw [xa, h.fNak]
          · rw [ca, hs]; omega
          · exact fun hh => absurd rfl (hh _)

/-- The loop of an exchange, whatever the port answers. -/
theorem exchangeLoop_finished (f : Bytes) (ack : Bool) (left : Nat) (s : State) (h : Ready left s) :
    Finished f left s (exchangeLoop f ack left s).1 (exchangeLoop f ack left s).2 := by
  induction left generalizing s with
  | zero =>
    rcases attempt_cases f ack h with ⟨t, e, ha, hf⟩ | ⟨t, l, left', ha, hl, -⟩
    · simpa [exchangeLoop, ha] using hf
    · omega
  | succ left ih =>
    rcases attempt_cases f ack h with ⟨t, e, ha, hf⟩ | ⟨t, l, left', ha, hl, hs, hack, hr⟩
    · simpa [exchangeLoop, ha] using hf
    · obtain rfl : left = left' := by omega
      simpa [exchangeLoop, ha] using Finished.after hs hack (ih t hr)

/-- The bounds on the retries are at least 1 (00_scope.md R10). -/
theorem bounds_pos {p : Params} (h : ParamsBoundsOk p) : 1 ≤ maxNak p ∧ 1 ≤ maxErr p := by
  unfold maxNak maxErr
  cases p.proto <;> first | exact ⟨h.1.1, h.2.1⟩ | simp [Config.fixedRetryBound]

theorem beginExchange_ready {s : State} {f : Bytes} (h : ParamsBoundsOk s.params) :
    Ready (retransmissions s.params) (s.beginExchange f) := by
  obtain ⟨h1, h2⟩ := bounds_pos h
  refine ⟨h, ?_, ?_, rfl, rfl, ?_⟩ <;> simp [retransmissions] <;> omega

/-- The three ways an exchange goes (42_exchange_retry.md R230): refused, SizeError, or the loop. -/
theorem exchange_cases (cmd payload : Bytes) (s : State) :
    (s.mayExchange = false ∧ exchange cmd payload s = (s, .failed .illegal)) ∨
      (s.mayExchange = true ∧ encodeExchange s.params s.ebdAck cmd payload = none ∧
        exchange cmd payload s = (s, .failed .sizeError)) ∨
      (∃ f, s.mayExchange = true ∧ encodeExchange s.params s.ebdAck cmd payload = some f ∧
        exchange cmd payload s = exchangeLoop f s.ebdAck (retransmissions s.params) (s.beginExchange f)) := by
  unfold exchange
  cases s.mayExchange with
  | false => simp
  | true => cases encodeExchange s.params s.ebdAck cmd payload <;> simp

/-- An exchange that sends something, whole (42_exchange_retry.md R230). -/
theorem exchange_finished {cmd payload f : Bytes} {s : State} (hp : ParamsBoundsOk s.params)
    (hm : s.mayExchange = true) (hf : encodeExchange s.params s.ebdAck cmd payload = some f) :
    Finished f (retransmissions s.params) (s.beginExchange f)
      (exchange cmd payload s).1 (exchange cmd payload s).2 := by
  have : exchange cmd payload s =
      exchangeLoop f s.ebdAck (retransmissions s.params) (s.beginExchange f) := by simp [exchange, hm, hf]
  rw [this]
  exact exchangeLoop_finished _ _ _ _ (beginExchange_ready hp)

/-! ### Frames fit the transmit buffer -/

theorem cctEncode_length {p : Params} {d s c : Byte} {bs f : Bytes} (h : cctEncode p d s c bs = some f) :
    f.length ≤ p.txCap := by
  unfold cctEncode at h
  split at h
  · cases h
  · cases h
    simp [cctFrame]
    omega

theorem ccnEncode_length {p : Params} {a c : Byte} {bs f : Bytes} (h : ccnEncode p a c bs = some f) :
    f.length ≤ p.txCap := by
  unfold ccnEncode at h
  split at h
  · cases h
  · cases h
    simp [ccnFrame]
    omega

theorem ebdEncode_length {p : Params} {a : Bool} {c : Byte} {bs f : Bytes} (h : ebdEncode p a c bs = some f) :
    f.length ≤ p.txCap := by
  unfold ebdEncode at h
  split at h
  · cases h
  · split at h
    · cases h
    · cases h
      simp [ebdFrame]
      omega

theorem wdgEncode_length {p : Params} {c : Byte} {f : Bytes} (h : wdgEncode p c = some f) : f.length ≤ p.txCap := by
  unfold wdgEncode at h
  split at h
  · cases h
  · cases h
    simp [wdgFrame, wdgHeader]
    omega

theorem atEncode_length {p : Params} {bs f : Bytes} {t : Bool} (h : atEncode p bs t = some f) :
    f.length ≤ p.txCap := by
  unfold atEncode at h
  split at h
  · cases h
  · split at h
    · cases h
      simp [atFrame]
      omega
    · cases h

theorem encodeExchange_length {p : Params} {a : Bool} {c bs f : Bytes} (h : encodeExchange p a c bs = some f) :
    f.length ≤ p.txCap := by
  unfold encodeExchange at h
  split at h
  · exact cctEncode_length h
  · exact ccnEncode_length h
  · exact ebdEncode_length h
  · split at h
    · cases h
    · exact wdgEncode_length h
  · split at h
    · cases h
    · exact atEncode_length h
  all_goals cases h

end Sys2Proof.Machine
end

