-- ==== Sys2Proof/Laws/Inv.lean ====
section
/-! SUPPORT. The invariant in two parts: what holds inside an operation too (`Quiet`), and what relates the session, the
port and the escrow registers (`Settled`); and what an exchange and a poll do to each part. -/

namespace Sys2Proof.Machine

/-- The part of the invariant that does not mention the session. -/
structure Quiet (s : State) : Prop where
  bounds : ParamsBoundsOk s.params
  tx : BufferOk s.txbuf s.txLen s.params.txCap
  rx : BufferOk s.rxbuf s.rxLen s.params.rxCap
  rtyIdle : s.rtyState = .idle
  nak : s.nakCnt.toNat ≤ maxNak s.params
  err : s.errCnt.toNat ≤ maxErr s.params
  exhausted : ¬ (s.fNakExh = true ∧ s.fErrExh = true)
  code : s.lastErr.toNat ≤ 0x0A
  events : ∀ e ∈ s.evq, e.legal = true

/-- The part of the invariant about session, port and escrow registers. -/
structure Settled (s : State) : Prop where
  notProbing : s.sesState ≠ .probing
  port : s.portOpen = true ↔ s.sesState = .polling
  line : s.portOpen = false → s.serialRx = []
  avail : s.sesState ≠ .closed → s.devAvail = true
  escIdle : s.sesState ≠ .polling → EscCleared s
  escFresh : s.escPrev = none → EscCleared s
  escCommand : s.escrowed = true → s.lastCmd ≠ .none
  escPending : s.pendAcc = true → s.escrowed = true

theorem inv_iff (s : State) : Inv s ↔ Quiet s ∧ Settled s :=
  ⟨fun h => ⟨⟨h.bounds, h.tx, h.rx, h.rtyIdle, h.nak, h.err, h.exhausted, h.code, h.events⟩,
      ⟨h.notProbing, h.port, h.line, h.avail, h.escIdle, h.escFresh, h.escCommand, h.escPending⟩⟩,
    fun ⟨h, k⟩ => ⟨h.bounds, h.tx, h.rx, k.notProbing, h.rtyIdle, k.port, k.line, k.avail, h.nak, h.err,
      h.exhausted, k.escIdle, k.escFresh, k.escCommand, k.escPending, h.code, h.events⟩⟩

/-- An exchange keeps the first part, whatever the session and the port's answers. -/
theorem exchange_quiet (cmd payload : Bytes) {s : State} (h : Quiet s) : Quiet (exchange cmd payload s).1 := by
  rcases exchange_cases cmd payload s with ⟨-, he⟩ | ⟨-, -, he⟩ | ⟨f, hm, hf, -⟩
  · rw [he]; exact h
  · rw [he]; exact h
  · have k := exchange_finished h.bounds hm hf
    generalize exchange cmd payload s = r at k ⊢
    obtain ⟨t, e⟩ := r
    have hp : t.params = s.params := k.kept.params
    refine ⟨?_, ?_, ?_, k.rty, ?_, ?_, ?_, ?_, ?_⟩
    · rw [hp]; exact h.bounds
    · have h1 : t.txbuf = Memory.store f := k.kept.txbuf
      have h2 : t.txLen = f.length := k.kept.txLen
      rw [h1, h2, hp]
      exact bufferOk_store (encodeExchange_length hf)
    · rcases k.rx with ⟨h1, h2⟩ | ⟨bs, hl, h1, h2⟩
      · rw [show t.rxbuf = s.rxbuf from h1, show t.rxLen = s.rxLen from h2, hp]
        exact h.rx
      · rw [show t.rxbuf = _ from h1, show t.rxLen = _ from h2, hp]
        exact bufferOk_store hl
    · rw [hp]; exact k.nak
    · rw [hp]; exact k.err
    · rintro ⟨h1, h2⟩
      simp only at h1 h2
      cases e with
      | answer r => have := k.notExh (by simp); simp_all
      | failed x =>
        cases x with
        | exhausted l =>
          cases l with
          | nakBusy => have := k.byNak rfl; simp_all
          | error d => have := k.byErr d rfl; simp_all
        | illegal => exact k.legal.1 rfl
        | sizeError => exact k.legal.2 rfl
        | portError => have := k.notExh (by simp); simp_all
        | timeout => have := k.notExh (by simp); simp_all
    · rw [show t.lastErr = s.lastErr from k.kept.lastErr]; exact h.code
    · rw [show t.evq = s.evq from k.kept.evq]; exact h.events

/-- What an exchange does to the session and the line: nothing, or a teardown (42_exchange_retry.md R236, R239). -/
theorem exchange_session (cmd payload : Bytes) {s : State} (h : ParamsBoundsOk s.params) :
    ((exchange cmd payload s).2 = .failed .portError ∧ TornDown (exchange cmd payload s).1) ∨
      ((exchange cmd payload s).2 ≠ .failed .portError ∧ SameSession s (exchange cmd payload s).1) := by
  rcases exchange_cases cmd payload s with ⟨-, he⟩ | ⟨-, -, he⟩ | ⟨f, hm, hf, -⟩
  · rw [he]; exact Or.inr ⟨by simp, .refl s⟩
  · rw [he]; exact Or.inr ⟨by simp, .refl s⟩
  · have k := exchange_finished h hm hf
    by_cases he : (exchange cmd payload s).2 = .failed .portError
    · exact Or.inl ⟨he, k.torn he⟩
    · exact Or.inr ⟨he, ⟨(k.session he).1, (k.session he).2, (k.session he).3, (k.session he).4, (k.session he).5,
        (k.session he).6, (k.session he).7, (k.session he).8, (k.session he).9⟩⟩

/-- What no exchange writes at all. -/
structure ExchangeKept (s t : State) : Prop where
  acc8 : t.acc8 = s.acc8
  crc : t.crc = s.crc
  accx : t.accx = s.accx
  lastErr : t.lastErr = s.lastErr
  stopPoll : t.stopPoll = s.stopPoll
  maxSum : t.maxSum = s.maxSum
  rejectAboveMax : t.rejectAboveMax = s.rejectAboveMax
  hasDbError : t.hasDbError = s.hasDbError
  lastEscTime : t.lastEscTime = s.lastEscTime
  evq : t.evq = s.evq
  params : t.params = s.params
  result : t.result = s.result
  pending : t.pending = s.pending
  openScript : t.openScript = s.openScript

/-- How a transmission, and a loop of them, can end whatever the bounds are: never as a refusal, with the session torn down by
a PortError and as it was otherwise (42_exchange_retry.md R236, R239). -/
structure Ends (s t : State) (e : ExchEnd) : Prop where
  kept : Kept s t
  legal : e ≠ .failed .illegal ∧ e ≠ .failed .sizeError
  session : e = .failed .portError ∧ TornDown t ∨ e ≠ .failed .portError ∧ SameSession s t

/-- What one transmission can do, whatever the bounds are. -/
theorem attempt_ends (f : Bytes) (ack : Bool) (s : State) :
    (∃ t e, attempt f ack s = .ended t e ∧ Ends s t e) ∨
      ∃ t l, attempt f ack s = .again t l ∧ Kept s t ∧ SameSession s t := by
  cases hw : s.writeAnswer with
  | false =>
    obtain ⟨t, ha, k, torn, -⟩ := attempt_portError (f := f) (ack := ack) hw
    exact Or.inl ⟨t, _, ha, k, by simp, Or.inl ⟨rfl, torn⟩⟩
  | true =>
    by_cases hr : replyBytes s = []
    · obtain ⟨t, ha, k, -⟩ := attempt_timeout (f := f) (ack := ack) hw hr
      exact Or.inl ⟨t, _, ha, k.kept, by simp, Or.inr ⟨by simp, k.session⟩⟩
    · cases hk : kindOf s.params ack (replyBytes s) with
      | answer r =>
        obtain ⟨t, ha, k, -⟩ := attempt_answer (f := f) hw hr hk
        exact Or.inl ⟨t, _, ha, k.kept, by simp, Or.inr ⟨by simp, k.session⟩⟩
      | nakBusy =>
        obtain ⟨t, k, -, -, -, ⟨-, ha, -⟩ | ⟨-, ha, -⟩⟩ := attempt_nak (f := f) hw hr hk
        · exact Or.inr ⟨t, _, ha, k.kept, k.session⟩
        · exact Or.inl ⟨t, _, ha, k.kept, by simp, Or.inr ⟨by simp, k.session⟩⟩
      | error d =>
        obtain ⟨t, k, -, -, -, ⟨-, ha, -⟩ | ⟨-, ha, -⟩⟩ := attempt_error (f := f) hw hr hk
        · exact Or.inr ⟨t, _, ha, k.kept, k.session⟩
        · exact Or.inl ⟨t, _, ha, k.kept, by simp, Or.inr ⟨by simp, k.session⟩⟩

/-- An outcome after a retransmission is one of the whole. -/
theorem Ends.after {s a t : State} {e : ExchEnd} (h : Ends a t e) (k : Kept s a) (m : SameSession s a) : Ends s t e :=
  ⟨k.trans h.kept, h.legal, h.session.imp_right fun ⟨n, l⟩ => ⟨n, m.trans l⟩⟩

/-- What a loop of transmissions can do, whatever the bounds are. -/
theorem exchangeLoop_ends (f : Bytes) (ack : Bool) (left : Nat) (s : State) :
    Ends s (exchangeLoop f ack left s).1 (exchangeLoop f ack left s).2 := by
  induction left generalizing s with
  | zero =>
    rcases attempt_ends f ack s with ⟨t, e, ha, k⟩ | ⟨t, l, ha, k, m⟩
    · simpa [exchangeLoop, ha] using k
    · simp only [exchangeLoop, ha]
      exact ⟨k.trans (by constructor <;> rfl), by simp, Or.inr ⟨by simp, m.trans (by constructor <;> rfl)⟩⟩
  | succ left ih =>
    rcases attempt_ends f ack s with ⟨t, e, ha, k⟩ | ⟨t, l, ha, k, m⟩
    · simpa [exchangeLoop, ha] using k
    · simpa [exchangeLoop, ha] using (ih t).after k m

/-- What an exchange that is legal and whose request is encoded can do, whatever the bounds are: it is refused in no way, and
the session is torn down by a PortError and as it was otherwise (42_exchange_retry.md R230, R236, R239). -/
theorem exchange_ends {cmd payload : Bytes} {s : State} (hm : s.mayExchange = true)
    (hf : encodeExchange s.params s.ebdAck cmd payload ≠ none) :
    (exchange cmd payload s).2 ≠ .failed .illegal ∧ (exchange cmd payload s).2 ≠ .failed .sizeError ∧
      ((exchange cmd payload s).2 = .failed .portError ∧ TornDown (exchange cmd payload s).1 ∨
        (exchange cmd payload s).2 ≠ .failed .portError ∧ SameSession s (exchange cmd payload s).1) := by
  rcases exchange_cases cmd payload s with ⟨h, -⟩ | ⟨-, h, -⟩ | ⟨f, -, -, he⟩
  · rw [hm] at h; cases h
  · exact absurd h hf
  · rw [he]
    have k := exchangeLoop_ends f s.ebdAck (retransmissions s.params) (s.beginExchange f)
    exact ⟨k.legal.1, k.legal.2, k.session.imp_right fun ⟨n, m⟩ => ⟨n, .trans (by constructor <;> rfl) m⟩⟩

/-- An exchange leaves these fields as they are in every state, whatever its bounds. -/
theorem exchange_kept (cmd payload : Bytes) (s : State) : ExchangeKept s (exchange cmd payload s).1 := by
  rcases exchange_cases cmd payload s with ⟨-, he⟩ | ⟨-, -, he⟩ | ⟨f, -, -, he⟩
  · rw [he]; constructor <;> rfl
  · rw [he]; constructor <;> rfl
  · rw [he]
    have k := (exchangeLoop_ends f s.ebdAck (retransmissions s.params) (s.beginExchange f)).kept
    exact ⟨k.acc8, k.crc, k.accx, k.lastErr, k.stopPoll, k.maxSum, k.rejectAboveMax, k.hasDbError, k.lastEscTime,
      k.evq, k.params, k.result, k.pending, k.openScript⟩

/-- Every event ESC.POLL adds is one of 60_exceptions.md R390. -/
theorem poll_events (s : State) (st : PollState) (now : Word) :
    ∃ es, (poll st now s).1.evq = s.evq ++ es ∧ ∀ e ∈ es, e.legal = true := by
  have hc : ∀ st, ∀ e ∈ changeEvents s st, e.legal = true := by
    intro st e he
    unfold changeEvents at he
    split at he
    · cases he
    · rw [List.mem_singleton] at he
      subst he
      cases st <;> simp [Event.legal, PollState.tag]
  cases hs : isSideState st with
  | true => exact ⟨_, by rw [poll_side s st now hs], hc st⟩
  | false =>
    cases st <;> first | (simp [isSideState] at hs; done) | skip
    · exact ⟨_, by rw [poll_idling], hc _⟩
    · rename_i d
      refine ⟨changeEvents s (.escrow d) ++ armEvents d (escrowArm s d now), by rw [poll_escrow, List.append_assoc],
        fun e he => ?_⟩
      rcases List.mem_append.1 he with he | he
      · exact hc _ e he
      · rcases escrowArm_cases s d now with ⟨h0, ha⟩ | ⟨h0, -, ha⟩ | ⟨h0, -, -, ha⟩ | ⟨h0, -, -, -, ha⟩ |
          ⟨h0, -, -, -, ha⟩ <;> rw [ha] at he <;> simp only [armEvents, List.mem_singleton, List.not_mem_nil] at he
        · subst he; rfl
        · subst he; simpa [Event.legal] using h0
    · rename_i d
      refine ⟨changeEvents s (.stacked d) ++ stackedEvents s d, by rw [poll_stacked, List.append_assoc],
        fun e he => ?_⟩
      rcases List.mem_append.1 he with he | he
      · exact hc _ e he
      · unfold stackedEvents at he
        split at he
        · rename_i h
          rw [List.mem_singleton] at he
          subst he
          simpa [Event.legal] using h.2
        · cases he
    · exact ⟨_, by rw [poll_returned], hc _⟩

theorem poll_quiet (st : PollState) (now : Word) {s : State} (h : Quiet s) : Quiet (poll st now s).1 := by
  have k := pollKept_poll s st now
  obtain ⟨es, he, hes⟩ := poll_events s st now
  refine ⟨?_, ?_, ?_, ?_, ?_, ?_, ?_, ?_, ?_⟩
  · rw [k.params]; exact h.bounds
  · rw [k.txbuf, k.txLen, k.params]; exact h.tx
  · rw [k.rxbuf, k.rxLen, k.params]; exact h.rx
  · rw [k.rtyState]; exact h.rtyIdle
  · rw [k.nakCnt, k.params]; exact h.nak
  · rw [k.errCnt, k.params]; exact h.err
  · rw [k.fNakExh, k.fErrExh]; exact h.exhausted
  · rw [k.lastErr]; exact h.code
  · rw [he]
    intro e hm
    rcases List.mem_append.1 hm with hm | hm
    · exact h.events e hm
    · exact hes e hm

/-- ESC.POLL in Polling keeps the second part. -/
theorem poll_settled (st : PollState) (now : Word) {s : State} (hp : s.sesState = .polling) (h : Settled s) :
    Settled (poll st now s).1 := by
  have k := pollKept_poll s st now
  have hprev : (poll st now s).1.escPrev = some st := rfl
  refine ⟨?_, ?_, ?_, ?_, ?_, ?_, ?_, ?_⟩
  · rw [k.sesState]; exact h.notProbing
  · rw [k.sesState, k.portOpen]; exact h.port
  · rw [k.portOpen, k.serialRx]; exact h.line
  · rw [k.sesState, k.devAvail]; exact h.avail
  · rw [k.sesState]; exact fun hn => absurd hp hn
  · rw [hprev]; exact fun hn => by cases hn
  · have hcmd := h.escCommand
    cases hs : isSideState st with
    | true => rw [poll_side s st now hs]; exact hcmd
    | false =>
      cases st <;> first | (simp [isSideState] at hs; done) | skip
      · rw [poll_idling]; simp
      · rename_i d
        rw [poll_escrow]
        intro _
        rcases escrowArm_cases s d now with ⟨-, ha⟩ | ⟨-, -, ha⟩ | ⟨-, -, hd, ha⟩ | ⟨-, -, -, -, ha⟩ |
          ⟨-, -, -, -, ha⟩ <;> simp only [ha, armCommand] <;> try (intro hx; cases hx)
        simp only [isDuplicate, decide_eq_true_eq, Bool.decide_and, Bool.and_eq_true] at hd
        exact hcmd hd.1
      · rw [poll_stacked]; exact hcmd
      · rw [poll_returned]; exact hcmd
  · have hpend := h.escPending
    cases hs : isSideState st with
    | true => rw [poll_side s st now hs]; exact hpend
    | false =>
      cases st <;> first | (simp [isSideState] at hs; done) | skip
      · rw [poll_idling]; simp
      · rw [poll_escrow]; simp
      · rw [poll_stacked]; simp
      · rw [poll_returned]; simp

theorem SameSession.settled {s t : State} (h : SameSession s t) (hl : t.portOpen = false → t.serialRx = [])
    (k : Settled s) : Settled t := by
  have hc : EscCleared s → EscCleared t := fun ⟨a, b, c, d, e, f⟩ =>
    ⟨h.accSum.trans a, h.fSumOvf.trans b, h.escPrev.trans c, h.escrowed.trans d, h.lastCmd.trans e,
      h.pendAcc.trans f⟩
  refine ⟨?_, ?_, hl, ?_, ?_, ?_, ?_, ?_⟩
  · rw [h.sesState]; exact k.notProbing
  · rw [h.sesState, h.portOpen]; exact k.port
  · rw [h.sesState, h.devAvail]; exact k.avail
  · rw [h.sesState]; exact fun hn => hc (k.escIdle hn)
  · rw [h.escPrev]; exact fun hn => hc (k.escFresh hn)
  · rw [h.escrowed, h.lastCmd]; exact k.escCommand
  · rw [h.pendAcc, h.escrowed]; exact k.escPending

theorem TornDown.settled {t : State} (h : TornDown t) : Settled t := by
  obtain ⟨a, b, c, d, e, f⟩ := h.esc
  refine ⟨?_, ?_, fun _ => h.line, ?_, fun _ => h.esc, fun _ => h.esc, ?_, ?_⟩
  · rw [h.sesState]; simp
  · rw [h.sesState, h.portOpen]; simp
  · rw [h.sesState]; simp
  · rw [d]; simp
  · rw [f]; simp

/-- An exchange with an open port keeps the second part. -/
theorem exchange_settled (cmd payload : Bytes) {s : State} (hb : ParamsBoundsOk s.params) (hp : s.sesState = .polling)
    (h : Settled s) : Settled (exchange cmd payload s).1 := by
  rcases exchange_session cmd payload hb with ⟨-, k⟩ | ⟨-, k⟩
  · exact k.settled
  · refine k.settled (fun hn => ?_) h
    rw [k.portOpen, h.port.2 hp] at hn
    cases hn

end Sys2Proof.Machine
end

