-- ==== Sys2Proof/Laws/Latch.lean ====
section
/-! SUPPORT. The status and result that the last operation left play no part in an exchange or a poll: they are carried
along. So an operation made of others (SES.PROBE, SES.CYCLE) is those operations, one after the other (42_exchange_retry.md
R240; 43_escrow.md R300). -/

namespace Sys2Proof.Machine

/-- The state with another latched status and result (60_exceptions.md R383). -/
def State.latched (code : Byte) (r : Result) (s : State) : State := { s with lastErr := code, result := r }

/-- A transmission's outcome with another latched status and result. -/
def Turn.latched (code : Byte) (r : Result) : Turn → Turn
  | .again s last => .again (s.latched code r) last
  | .ended s e => .ended (s.latched code r) e

variable (code : Byte) (r : Result)

theorem traced_latched (d : Direction) (bs : Bytes) (s : State) :
    (s.latched code r).traced d bs = (s.traced d bs).latched code r := by
  unfold State.traced
  rw [apply_ite (State.latched code r)]
  rfl

theorem decodePhase_latched (ack : Bool) (rx : Bytes) (s : State) :
    decodePhase ack rx (s.latched code r) = (decodePhase ack rx s).latched code r := by
  rw [decodePhase_eq, decodePhase_eq]
  change classifyReply (verdict s.params ack rx) ((decoded ack rx s).latched code r) = _
  cases verdict s.params ack rx with
  | error e =>
    simp only [classifyReply]
    rw [apply_ite (Turn.latched code r)]
    rfl
  | ok d =>
    simp only [classifyReply]
    rw [apply_ite (Turn.latched code r), apply_ite (Turn.latched code r)]
    rfl

/-- The state after the bytes of a read are stored and traced. -/
def afterRead (s : State) : State :=
  ((s.readPort s.params.rxCap s.params.readTimeoutMs).2.putRx (readBytes s)).traced .rx (readBytes s)

theorem readPhase_eq (s : State) : readPhase s =
    if readBytes s = [] then .error ((afterRead s).finishExchange, .failed .timeout)
    else .ok ({ afterRead s with rtyState := .decode }, readBytes s) := rfl

theorem afterRead_latched (s : State) : afterRead (s.latched code r) = (afterRead s).latched code r :=
  traced_latched code r .rx (readBytes s) ((s.readPort s.params.rxCap s.params.readTimeoutMs).2.putRx (readBytes s))

/-- The state after a write, its answer aside. -/
def afterWrite (f : Bytes) (s : State) : State := ((s.traced .tx f).writePort f).2

theorem writePhase_eq (f : Bytes) (s : State) : writePhase f s =
    if s.writeAnswer then .ok { afterWrite f s with rtyState := .read }
    else .error ((afterWrite f s).teardown.finishExchange, .failed .portError) := by
  have h : (s.traced .tx f).writeAnswer = s.writeAnswer := by simp [State.writeAnswer]
  have e : ((s.traced .tx f).writePort f).1 = s.writeAnswer := by rw [writePort_eq]; exact h
  rw [← e]
  rfl

theorem afterWrite_latched (f : Bytes) (s : State) :
    afterWrite f (s.latched code r) = (afterWrite f s).latched code r := by
  simp only [afterWrite, traced_latched, writePort_eq]
  rfl

/-- One transmission carries the latched status and result along. -/
theorem attempt_latched (f : Bytes) (ack : Bool) (s : State) :
    attempt f ack (s.latched code r) = (attempt f ack s).latched code r := by
  have hw : (s.latched code r).writeAnswer = s.writeAnswer := rfl
  unfold attempt
  rw [writePhase_eq, writePhase_eq, hw, afterWrite_latched]
  cases s.writeAnswer with
  | false => rfl
  | true =>
    simp only [if_true]
    generalize afterWrite f s = a
    change (match readPhase ({ a with rtyState := .read }.latched code r) with
      | .error (s, e) => Turn.ended s e
      | .ok (s, rx) => decodePhase ack rx s) = _
    generalize { a with rtyState := .read } = b
    have hb : readBytes (b.latched code r) = readBytes b := rfl
    rw [readPhase_eq, readPhase_eq, hb, afterRead_latched]
    by_cases h : readBytes b = []
    · simp only [if_pos h]
      rfl
    · simp only [if_neg h]
      exact decodePhase_latched code r ack _ { afterRead b with rtyState := .decode }

theorem exchangeLoop_latched (f : Bytes) (ack : Bool) (left : Nat) (s : State) :
    exchangeLoop f ack left (s.latched code r) =
      ((exchangeLoop f ack left s).1.latched code r, (exchangeLoop f ack left s).2) := by
  induction left generalizing s with
  | zero =>
    simp only [exchangeLoop, attempt_latched]
    cases attempt f ack s <;> rfl
  | succ left ih =>
    simp only [exchangeLoop, attempt_latched]
    cases attempt f ack s with
    | ended t e => rfl
    | again t last => exact ih t

/-- An exchange carries the latched status and result along. -/
theorem exchange_latched (cmd payload : Bytes) (s : State) :
    exchange cmd payload (s.latched code r) =
      ((exchange cmd payload s).1.latched code r, (exchange cmd payload s).2) := by
  have hm : (s.latched code r).mayExchange = s.mayExchange := rfl
  have he : encodeExchange (s.latched code r).params (s.latched code r).ebdAck cmd payload =
    encodeExchange s.params s.ebdAck cmd payload := rfl
  simp only [exchange, hm, he]
  cases s.mayExchange with
  | false => rfl
  | true =>
    cases encodeExchange s.params s.ebdAck cmd payload with
    | none => rfl
    | some f => exact exchangeLoop_latched code r f s.ebdAck _ (s.beginExchange f)

/-- A poll carries them along too. -/
theorem poll_latched (st : PollState) (now : Word) (s : State) :
    poll st now (s.latched code r) = ((poll st now s).1.latched code r, (poll st now s).2) := by
  have hs : statusEvent (s.latched code r) st = (statusEvent s st).latched code r := by
    unfold statusEvent
    rw [apply_ite (State.latched code r)]
    rfl
  simp only [poll, hs]
  generalize statusEvent s st = a
  cases st with
  | escrow d =>
    have ha : escrowArm (a.latched code r) d now = escrowArm a d now := rfl
    simp only [pollCase, escrowEvent, ha]
    cases escrowArm a d now <;> rfl
  | stacked d =>
    have he : stackedEvent (a.latched code r) d = (stackedEvent a d).latched code r := by
      unfold stackedEvent
      rw [apply_ite (State.latched code r), apply_ite (State.latched code r)]
      rfl
    simp only [pollCase, he]
    rfl
  | _ => rfl

/-! ### The operations made of exchanges -/

/-- SES.EXCHANGE in terms of the exchange: the state and the status it ends with. -/
theorem execSesExchange_eq (cmd payload : Bytes) (s : State) :
    execSesExchange cmd payload s =
      .next ((exchange cmd payload s).1.latched (exchange cmd payload s).2.shown.1 (exchange cmd payload s).2.shown.2) := by
  unfold execSesExchange
  rcases exchange cmd payload s with ⟨t, e⟩
  cases e <;> rfl

end Sys2Proof.Machine
end

