-- ==== Sys2Proof/Laws/PerInstr.lean ====
section
/-! SUPPORT. A family of statements with one lemma per instruction: the request of every operation begins with the op-select
code of 30_encoding.md R110, and a wire instruction has none. -/

namespace Sys2Proof.Laws.OpSelect

/-- The op-select code of an instruction (30_encoding.md R110), none for a frame on the line. -/
def code : Instr → Option Byte
  | .sysReset => some 0x00
  | .chkS8Init => some 0x10
  | .chkS8Upd .. => some 0x11
  | .chkS8Fin => some 0x12
  | .chkC16Init => some 0x14
  | .chkC16Upd .. => some 0x15
  | .chkC16Fin => some 0x16
  | .chkX8Init => some 0x18
  | .chkX8Upd .. => some 0x19
  | .chkX8Fin => some 0x1A
  | .frmLoad .. => some 0x20
  | .frmCctEnc .. => some 0x22
  | .frmCctDec .. => some 0x23
  | .frmCcnEnc .. => some 0x24
  | .frmCcnDec .. => some 0x25
  | .frmEbdEnc .. => some 0x26
  | .frmEbdDec .. => some 0x27
  | .frmWdgEnc .. => some 0x28
  | .frmWdgDec => some 0x29
  | .frmWdgChk => some 0x2A
  | .sesProbe => some 0x30
  | .sesStart => some 0x31
  | .sesStop => some 0x32
  | .sesClose => some 0x33
  | .sesExchange .. => some 0x34
  | .sesStopreq => some 0x35
  | .sesCycle .. => some 0x36
  | .escCfg .. => some 0x40
  | .escDberr .. => some 0x41
  | .escPoll .. => some 0x42
  | .atdEnc .. => some 0x50
  | .atdDec => some 0x51
  | .atdUssd => some 0x52
  | .wireCctalk .. => none
  | .wireCcnet .. => none
  | .wireEbds .. => none
  | .wireWatchdog .. => none
  | .wireAt .. => none

/-- The encoding of an operation starts with its op-select code; an instruction without a code is a frame of one family. -/
def Statement (i : Instr) : Prop :=
  (∀ (p : Params) (op : Byte), code i = some op → (encode p i).head? = some op) ∧
    (code i = none ↔ isWire i = true)

theorem sysReset : Statement .sysReset :=
  ⟨fun _ _ h => h, ⟨fun h => (nomatch h), fun h => (nomatch h)⟩⟩
theorem chkS8Init : Statement .chkS8Init :=
  ⟨fun _ _ h => h, ⟨fun h => (nomatch h), fun h => (nomatch h)⟩⟩
theorem chkS8Upd (b : Byte) : Statement (.chkS8Upd b) :=
  ⟨fun _ _ h => h, ⟨fun h => (nomatch h), fun h => (nomatch h)⟩⟩
theorem chkS8Fin : Statement .chkS8Fin :=
  ⟨fun _ _ h => h, ⟨fun h => (nomatch h), fun h => (nomatch h)⟩⟩
theorem chkC16Init : Statement .chkC16Init :=
  ⟨fun _ _ h => h, ⟨fun h => (nomatch h), fun h => (nomatch h)⟩⟩
theorem chkC16Upd (b : Byte) : Statement (.chkC16Upd b) :=
  ⟨fun _ _ h => h, ⟨fun h => (nomatch h), fun h => (nomatch h)⟩⟩
theorem chkC16Fin : Statement .chkC16Fin :=
  ⟨fun _ _ h => h, ⟨fun h => (nomatch h), fun h => (nomatch h)⟩⟩
theorem chkX8Init : Statement .chkX8Init :=
  ⟨fun _ _ h => h, ⟨fun h => (nomatch h), fun h => (nomatch h)⟩⟩
theorem chkX8Upd (b : Byte) : Statement (.chkX8Upd b) :=
  ⟨fun _ _ h => h, ⟨fun h => (nomatch h), fun h => (nomatch h)⟩⟩
theorem chkX8Fin : Statement .chkX8Fin :=
  ⟨fun _ _ h => h, ⟨fun h => (nomatch h), fun h => (nomatch h)⟩⟩
theorem frmLoad (bytes : Bytes) : Statement (.frmLoad bytes) :=
  ⟨fun _ _ h => h, ⟨fun h => (nomatch h), fun h => (nomatch h)⟩⟩
theorem frmCctEnc (dest src cmd : Byte) (payload : Bytes) : Statement (.frmCctEnc dest src cmd payload) :=
  ⟨fun _ _ h => h, ⟨fun h => (nomatch h), fun h => (nomatch h)⟩⟩
theorem frmCctDec (expectDest : Byte) : Statement (.frmCctDec expectDest) :=
  ⟨fun _ _ h => h, ⟨fun h => (nomatch h), fun h => (nomatch h)⟩⟩
theorem frmCcnEnc (addr cmd : Byte) (payload : Bytes) : Statement (.frmCcnEnc addr cmd payload) :=
  ⟨fun _ _ h => h, ⟨fun h => (nomatch h), fun h => (nomatch h)⟩⟩
theorem frmCcnDec (expectAddr : Byte) : Statement (.frmCcnDec expectAddr) :=
  ⟨fun _ _ h => h, ⟨fun h => (nomatch h), fun h => (nomatch h)⟩⟩
theorem frmEbdEnc (cmd : Byte) (payload : Bytes) : Statement (.frmEbdEnc cmd payload) :=
  ⟨fun _ _ h => h, ⟨fun h => (nomatch h), fun h => (nomatch h)⟩⟩
theorem frmEbdDec (expectAck : Bool) : Statement (.frmEbdDec expectAck) :=
  ⟨fun _ _ h => h, ⟨fun h => (nomatch h), fun h => (nomatch h)⟩⟩
theorem frmWdgEnc (cmd : Byte) : Statement (.frmWdgEnc cmd) :=
  ⟨fun _ _ h => h, ⟨fun h => (nomatch h), fun h => (nomatch h)⟩⟩
theorem frmWdgDec : Statement .frmWdgDec :=
  ⟨fun _ _ h => h, ⟨fun h => (nomatch h), fun h => (nomatch h)⟩⟩
theorem frmWdgChk : Statement .frmWdgChk :=
  ⟨fun _ _ h => h, ⟨fun h => (nomatch h), fun h => (nomatch h)⟩⟩
theorem sesProbe : Statement .sesProbe :=
  ⟨fun _ _ h => h, ⟨fun h => (nomatch h), fun h => (nomatch h)⟩⟩
theorem sesStart : Statement .sesStart :=
  ⟨fun _ _ h => h, ⟨fun h => (nomatch h), fun h => (nomatch h)⟩⟩
theorem sesStop : Statement .sesStop :=
  ⟨fun _ _ h => h, ⟨fun h => (nomatch h), fun h => (nomatch h)⟩⟩
theorem sesClose : Statement .sesClose :=
  ⟨fun _ _ h => h, ⟨fun h => (nomatch h), fun h => (nomatch h)⟩⟩
theorem sesExchange (cmd payload : Bytes) : Statement (.sesExchange cmd payload) :=
  ⟨fun _ _ h => h, ⟨fun h => (nomatch h), fun h => (nomatch h)⟩⟩
theorem sesStopreq : Statement .sesStopreq :=
  ⟨fun _ _ h => h, ⟨fun h => (nomatch h), fun h => (nomatch h)⟩⟩
theorem sesCycle (now : Word) : Statement (.sesCycle now) :=
  ⟨fun _ _ h => h, ⟨fun h => (nomatch h), fun h => (nomatch h)⟩⟩
theorem escCfg (maxSum : Word) (rejectAboveMax : Bool) : Statement (.escCfg maxSum rejectAboveMax) :=
  ⟨fun _ _ h => h, ⟨fun h => (nomatch h), fun h => (nomatch h)⟩⟩
theorem escDberr (flag : Bool) : Statement (.escDberr flag) :=
  ⟨fun _ _ h => h, ⟨fun h => (nomatch h), fun h => (nomatch h)⟩⟩
theorem escPoll (state : PollState) (now : Word) : Statement (.escPoll state now) :=
  ⟨fun _ _ h => h, ⟨fun h => (nomatch h), fun h => (nomatch h)⟩⟩
theorem atdEnc (text : Bytes) (term : Bool) : Statement (.atdEnc text term) :=
  ⟨fun _ _ h => h, ⟨fun h => (nomatch h), fun h => (nomatch h)⟩⟩
theorem atdDec : Statement .atdDec :=
  ⟨fun _ _ h => h, ⟨fun h => (nomatch h), fun h => (nomatch h)⟩⟩
theorem atdUssd : Statement .atdUssd :=
  ⟨fun _ _ h => h, ⟨fun h => (nomatch h), fun h => (nomatch h)⟩⟩
theorem wireCctalk (dest src cmd : Byte) (payload : Bytes) : Statement (.wireCctalk dest src cmd payload) :=
  ⟨fun _ _ h => (nomatch h), ⟨fun _ => rfl, fun _ => rfl⟩⟩
theorem wireCcnet (addr cmd : Byte) (payload : Bytes) : Statement (.wireCcnet addr cmd payload) :=
  ⟨fun _ _ h => (nomatch h), ⟨fun _ => rfl, fun _ => rfl⟩⟩
theorem wireEbds (ctl : Byte) (data : Bytes) : Statement (.wireEbds ctl data) :=
  ⟨fun _ _ h => (nomatch h), ⟨fun _ => rfl, fun _ => rfl⟩⟩
theorem wireWatchdog (cmd : Byte) : Statement (.wireWatchdog cmd) :=
  ⟨fun _ _ h => (nomatch h), ⟨fun _ => rfl, fun _ => rfl⟩⟩
theorem wireAt (text : Bytes) (term : Bool) : Statement (.wireAt text term) :=
  ⟨fun _ _ h => (nomatch h), ⟨fun _ => rfl, fun _ => rfl⟩⟩

end Sys2Proof.Laws.OpSelect
end

