-- ==== Sys2Proof/Tests/Slice0.lean ====
section
/-! SUPPORT. Tests: the refusals of `WellFormed`, the decoding of every constructor from bytes written out from
30_encoding.md, one or two steps per operation with the values of the spec's worked examples, and for every statement with
hypotheses a concrete state and operands that meet them. -/

namespace Sys2Proof.Machine.Tests

set_option Elab.async false

/-! ## Concrete instances -/

/-- The hexadecimal text of the one code point 0x0031. -/
def ucs31 : Bytes := [0x30, 0x30, 0x33, 0x31]

/-- An instance with every parameter concrete, so that a test rests on no free value. -/
def paramsOf (proto : Proto) : Params where
  proto := proto
  rxCap := 1024
  txCap := 1024
  crcInit := 0x0000
  crcXorOut := 0x0000
  cctHostAddr := 0x01
  cctDevAddr := 0x02
  cctNakBusyField := .payload
  ccnAddr := 0x03
  ebdAckBit := 0
  ebdCrcCoversPostfix := true
  otherMaxNak := 3
  otherMaxErr := 3
  readTimeoutMs := 100
  pollSleepMs := 100
  dupWindowMs := 500
  cmdPoll := [0xFE]
  cmdStack := [0x35]
  cmdReturn := [0x36]
  cmdIdent := [0xFE]
  probeFollowups := []
  ccnFailByte := 0xFF
  gsm7Table := Config.gsm7Default
  interpTable := [(.cct 0x02 0x00 [0x32], .escrow 50), (.cct 0x02 0x00 [], .idling)]
  nakTable := []
  ussdTable := [([0x31, 0x32], some [0x31]), (ucs31.map fun b => b.setWidth 16, none), ([0x40, 0x62], none),
    ([0x31], some [0x31]), ([0x48], none)]

def base (proto : Proto) : State := { State.reset with params := paramsOf proto }

/-- RXBUF holds the bytes. -/
def loaded (proto : Proto) (bs : Bytes) : State := (base proto).putRx bs

/-- Polling with the port open; the device answers with the bursts in turn. -/
def polling (proto : Proto) (answers : List Bytes) : State :=
  { base proto with
    sesState := .polling, portOpen := true, devAvail := true
    writeScript := answers.map fun _ => true, readScript := answers }

/-- Closed, with the port about to open and the device about to answer. -/
def closedWith (proto : Proto) (answers : List Bytes) : State :=
  { base proto with openScript := [true], writeScript := answers.map fun _ => true, readScript := answers }

/-- A property of the next state of an outcome; false of a fault or a refusal. -/
def Then (o : Host.Outcome State Fault Refusal) (p : State → Bool) : Bool :=
  match o with
  | .next t => p t
  | .fault _ | .refused _ => false

/-! ## WellFormed: an ill-formed term for each check -/

/-- A byte sequence one longer than a length field can count. -/
def tooLong : Bytes := List.replicate (maxSeq + 1) 0

theorem tooLong_length : tooLong.length = 65536 := List.length_replicate

theorem test_wf_load : ¬ WellFormed (.frmLoad tooLong) := by simp [WellFormed, tooLong_length, maxSeq]
theorem test_wf_cctEnc : ¬ WellFormed (.frmCctEnc 0 0 0 tooLong) := by simp [WellFormed, tooLong_length, maxSeq]
theorem test_wf_ccnEnc : ¬ WellFormed (.frmCcnEnc 0 0 tooLong) := by simp [WellFormed, tooLong_length, maxSeq]
theorem test_wf_ebdEnc : ¬ WellFormed (.frmEbdEnc 0 tooLong) := by simp [WellFormed, tooLong_length, maxSeq]
theorem test_wf_exchange : ¬ WellFormed (.sesExchange tooLong []) ∧ ¬ WellFormed (.sesExchange [] tooLong) := by
  simp [WellFormed, tooLong_length, maxSeq]
theorem test_wf_atdEnc : ¬ WellFormed (.atdEnc tooLong false) := by simp [WellFormed, tooLong_length, maxSeq]
theorem test_wf_wireCctalk : ¬ WellFormed (.wireCctalk 0 0 0 (List.replicate 256 0)) := by decide +kernel
theorem test_wf_wireCcnet : ¬ WellFormed (.wireCcnet 0 0 (List.replicate 250 0)) := by decide +kernel
theorem test_wf_wireEbds : ¬ WellFormed (.wireEbds 0 (List.replicate 251 0)) := by decide +kernel
theorem test_wf_wireAt :
    ¬ WellFormed (.wireAt [0x41, 0x0D] false) ∧ ¬ WellFormed (.wireAt [0x41, 0x0A] true) ∧
      ¬ WellFormed (.wireAt [0x41, 0x1A] true) ∧ WellFormed (.wireAt [0x41, 0x1A] false) := by decide +kernel

/-! ## Decoding: the op-select codes of R110 and the frames of R90 to R103 -/

theorem test_decode_sys : Decode.request [0x00] = .ok (.sysReset, []) := rfl
theorem test_decode_chk :
    Decode.request [0x10] = .ok (.chkS8Init, []) ∧ Decode.request [0x11, 0xA5] = .ok (.chkS8Upd 0xA5, []) ∧
    Decode.request [0x12] = .ok (.chkS8Fin, []) ∧ Decode.request [0x14] = .ok (.chkC16Init, []) ∧
    Decode.request [0x15, 0xA5] = .ok (.chkC16Upd 0xA5, []) ∧ Decode.request [0x16] = .ok (.chkC16Fin, []) ∧
    Decode.request [0x18] = .ok (.chkX8Init, []) ∧ Decode.request [0x19, 0xA5] = .ok (.chkX8Upd 0xA5, []) ∧
    Decode.request [0x1A] = .ok (.chkX8Fin, []) := ⟨rfl, rfl, rfl, rfl, rfl, rfl, rfl, rfl, rfl⟩
theorem test_decode_frm :
    Decode.request [0x20, 0x02, 0x00, 0xAA, 0xBB] = .ok (.frmLoad [0xAA, 0xBB], []) ∧
    Decode.request [0x22, 0x02, 0x01, 0xFE, 0x01, 0x00, 0x07] = .ok (.frmCctEnc 0x02 0x01 0xFE [0x07], []) ∧
    Decode.request [0x23, 0x01] = .ok (.frmCctDec 0x01, []) ∧
    Decode.request [0x24, 0x03, 0x33, 0x01, 0x00, 0x07] = .ok (.frmCcnEnc 0x03 0x33 [0x07], []) ∧
    Decode.request [0x25, 0x03] = .ok (.frmCcnDec 0x03, []) ∧
    Decode.request [0x26, 0x10, 0x01, 0x00, 0x07] = .ok (.frmEbdEnc 0x10 [0x07], []) ∧
    Decode.request [0x27, 0x01] = .ok (.frmEbdDec true, []) ∧
    Decode.request [0x28, 0x7E] = .ok (.frmWdgEnc 0x7E, []) ∧ Decode.request [0x29] = .ok (.frmWdgDec, []) ∧
    Decode.request [0x2A] = .ok (.frmWdgChk, []) := ⟨rfl, rfl, rfl, rfl, rfl, rfl, rfl, rfl, rfl, rfl⟩
theorem test_decode_ses :
    Decode.request [0x30] = .ok (.sesProbe, []) ∧ Decode.request [0x31] = .ok (.sesStart, []) ∧
    Decode.request [0x32] = .ok (.sesStop, []) ∧ Decode.request [0x33] = .ok (.sesClose, []) ∧
    Decode.request [0x34, 0x01, 0x00, 0xFE, 0x00, 0x00] = .ok (.sesExchange [0xFE] [], []) ∧
    Decode.request [0x35] = .ok (.sesStopreq, []) ∧
    Decode.request [0x36, 0x78, 0x56, 0x34, 0x12] = .ok (.sesCycle 0x12345678, []) :=
  ⟨rfl, rfl, rfl, rfl, rfl, rfl, rfl⟩
theorem test_decode_esc :
    Decode.request [0x40, 0x64, 0x00, 0x00, 0x00, 0x01] = .ok (.escCfg 100 true, []) ∧
    Decode.request [0x41, 0x01] = .ok (.escDberr true, []) ∧
    Decode.request [0x42, 0x02, 0x32, 0x00, 0x00, 0x00, 0xE8, 0x03, 0x00, 0x00] =
      .ok (.escPoll (.escrow 50) 1000, []) := ⟨rfl, rfl, rfl⟩
theorem test_decode_atd :
    Decode.request [0x50, 0x02, 0x00, 0x41, 0x54, 0x01] = .ok (.atdEnc [0x41, 0x54] true, []) ∧
    Decode.request [0x50, 0x02, 0x00, 0x41, 0x54] = .ok (.atdEnc [0x41, 0x54] false, []) ∧
    Decode.request [0x51] = .ok (.atdDec, []) ∧ Decode.request [0x52] = .ok (.atdUssd, []) := ⟨rfl, rfl, rfl, rfl⟩
theorem test_decode_wire :
    Decode.wire (paramsOf .cctalk) [0x01, 0x01, 0x02, 0x00, 0x05, 0xF7] = some (.wireCctalk 0x01 0x02 0x00 [0x05]) ∧
    Decode.wire (paramsOf .ccnet) [0x02, 0x03, 0x06, 0x33, 0xDA, 0x81] = some (.wireCcnet 0x03 0x33 []) ∧
    Decode.wire (paramsOf .ebds) [0x02, 0x07, 0x20, 0x41, 0x45, 0x03, 0x20] = some (.wireEbds 0x20 [0x41, 0x45]) ∧
    Decode.wire (paramsOf .wdg) [0x4F, 0x53, 0x50, 0x7E] = some (.wireWatchdog 0x7E) ∧
    Decode.wire (paramsOf .at) [0x41, 0x54, 0x0D] = some (.wireAt [0x41, 0x54] false) ∧
    Decode.wire (paramsOf .at) [0x41, 0x54, 0x1A] = some (.wireAt [0x41, 0x54] true) := by decide +kernel
theorem test_decode_rejects :
    Decode.request [] = .error .truncated ∧ Decode.request [0x01] = .error (.undefinedOp 0x01) ∧
    Decode.request [0x11] = .error .truncated ∧ Decode.request [0x27, 0x02] = .error (.badBit 0x02) ∧
    Decode.request [0x42, 0x0F, 0, 0, 0, 0, 0, 0, 0, 0] = .error (.badPollState 0x0F) ∧
    Decode.request [0x42, 0x00, 1, 0, 0, 0, 0, 0, 0, 0] = .error (.badPollState 0x00) := ⟨rfl, rfl, rfl, rfl, rfl, rfl⟩
theorem test_decode_rejects_damage :
    Decode.wire (paramsOf .cctalk) [0x01, 0x01, 0x02, 0x00, 0x05, 0xF6] = none ∧
    Decode.wire (paramsOf .ccnet) [0x02, 0x03, 0x06, 0x33, 0xDA, 0x80] = none ∧
    Decode.wire (paramsOf .ebds) [0x02, 0x07, 0x20, 0x41, 0x45, 0x03, 0x21] = none ∧
    Decode.wire (paramsOf .wdg) [0x4F, 0x53, 0x51, 0x7E] = none := by decide +kernel

/-! ## One step of each operation; the values are the worked examples of the rule named -/

/-- 70_reset_and_hazards.md R421. -/
theorem test_sysReset : Then (exec .sysReset { polling .ebds [] with ebdAck := true, serialRx := [1] }) fun t =>
    t.sesState = .closed ∧ t.portOpen = false ∧ t.ebdAck = false ∧ t.serialRx = [] := by decide +kernel
/-- 40_checksum.md R134 to R136. -/
theorem test_chkS8Init : Then (exec .chkS8Init { base .at with acc8 := 0x55 }) fun t => t.acc8 = 0x00 := by decide +kernel
theorem test_chkS8Upd_wraps : Then (exec (.chkS8Upd 0x01) { base .at with acc8 := 0xFF }) fun t => t.acc8 = 0x00 := by
  decide +kernel
theorem test_chkS8Fin : Then (exec .chkS8Fin { base .at with acc8 := 0x03 }) fun t =>
    t.result = .byte 0xFD ∧ t.acc8 = 0x03 := by decide +kernel
/-- 40_checksum.md R141 to R144. -/
theorem test_chkC16Init : Then (exec .chkC16Init { base .at with crc := 0x55 }) fun t => t.crc = 0x0000 := by
  decide +kernel
theorem test_chkC16Upd : Then (exec (.chkC16Upd 0x02) (base .at)) fun t => t.crc = 0x2312 := by decide +kernel
theorem test_chkC16Upd_trace : Then (exec (.chkC16Upd 0x33) { base .at with crc := 0xFAE6 }) fun t => t.crc = 0x81DA := by
  decide +kernel
theorem test_chkC16Fin : Then (exec .chkC16Fin { base .at with crc := 0x81DA }) fun t => t.result = .half 0x81DA := by
  decide +kernel
/-- 40_checksum.md R148 to R150. -/
theorem test_chkX8Init : Then (exec .chkX8Init { base .at with accx := 0x55 }) fun t => t.accx = 0x00 := by decide +kernel
theorem test_chkX8Upd : Then (exec (.chkX8Upd 0x03) { base .at with accx := 0x15 }) fun t => t.accx = 0x16 := by
  decide +kernel
theorem test_chkX8Fin : Then (exec .chkX8Fin { base .at with accx := 0x16 }) fun t => t.result = .byte 0x16 := by
  decide +kernel
/-- 41_framers.md R160. -/
theorem test_frmLoad : Then (exec (.frmLoad [0x01, 0x00, 0x02, 0x00, 0xFD]) (base .cctalk)) fun t =>
    t.rxLen = 5 ∧ t.rxBytes = some [0x01, 0x00, 0x02, 0x00, 0xFD] := by decide +kernel
/-- 41_framers.md R162, R163, R165. -/
theorem test_frmCctEnc : Then (exec (.frmCctEnc 0x02 0x01 0xFE []) (base .cctalk)) fun t =>
    t.txBytes = some [0x02, 0x00, 0x01, 0xFE, 0xFF] := by decide +kernel
theorem test_frmCctDec : Then (exec (.frmCctDec 0x01) (loaded .cctalk [0x01, 0x01, 0x02, 0x00, 0x05, 0xF7])) fun t =>
    t.lastErr = 0x00 ∧ t.result = .reply (.cct 0x02 0x00 [0x05]) := by decide +kernel
theorem test_frmCctDec_checksum : Then (exec (.frmCctDec 0x01) (loaded .cctalk [0x01, 0x00, 0x02, 0x00, 0xFC])) fun t =>
    t.lastErr = 0x01 := by decide +kernel
/-- 41_framers.md R177, R178, R185. -/
theorem test_frmCcnEnc : Then (exec (.frmCcnEnc 0x03 0x34 [0xFF, 0xFF, 0xFF, 0, 0, 0]) (base .ccnet)) fun t =>
    t.txBytes = some [0x02, 0x03, 0x0C, 0x34, 0xFF, 0xFF, 0xFF, 0, 0, 0, 0xB5, 0xC1] := by decide +kernel
theorem test_frmCcnDec_resync :
    Then (exec (.frmCcnDec 0x03) (loaded .ccnet [0x02, 0x02, 0xFF, 0x02, 0x03, 0x06, 0x33, 0xDA, 0x81])) fun t =>
      t.lastErr = 0x00 ∧ t.fResync = true ∧ t.result = .reply (.ccn 0x33 [] 3) := by decide +kernel
theorem test_frmCcnDec_address :
    Then (exec (.frmCcnDec 0x03) (loaded .ccnet [0x02, 0x04, 0x06, 0x33, 0xDF, 0x0D])) fun t => t.lastErr = 0x03 := by
  decide +kernel
/-- 41_framers.md R190, R192, R198. -/
theorem test_frmEbdEnc : Then (exec (.frmEbdEnc 0x20 [0x70, 0x02, 0xAA]) { base .ebds with ebdAck := true }) fun t =>
    t.txBytes = some [0x02, 0x08, 0x21, 0x70, 0x02, 0xAA, 0x03, 0xF2] := by decide +kernel
theorem test_frmEbdDec_extended :
    Then (exec (.frmEbdDec true) (loaded .ebds [0x02, 0x08, 0x21, 0x70, 0x02, 0xAA, 0x03, 0xF2])) fun t =>
      t.fExt = true ∧ t.result = .reply (.ebd 0x20 [0x02, 0xAA]) := by decide +kernel
theorem test_frmEbdDec_ack :
    Then (exec (.frmEbdDec true) (loaded .ebds [0x02, 0x07, 0x20, 0x41, 0x45, 0x03, 0x20])) fun t => t.lastErr = 0x04 := by
  decide +kernel
/-- 41_framers.md R204 to R206. -/
theorem test_frmWdgEnc : Then (exec (.frmWdgEnc 0x01) (base .wdg)) fun t => t.txBytes = some [0x4F, 0x53, 0x50, 0x01] := by
  decide +kernel
theorem test_frmWdgDec : Then (exec .frmWdgDec (loaded .wdg [0x4F, 0x53, 0x50, 0x7E])) fun t =>
    t.result = .wdgCommand 0x7E := by decide +kernel
theorem test_frmWdgChk : Then (exec .frmWdgChk (loaded .wdg [0x57, 0x44, 0x54, 0x20, 0x76, 0x31, 0x2E, 0x32])) fun t =>
    t.lastErr = 0x00 := by decide +kernel
theorem test_frmWdgChk_case : Then (exec .frmWdgChk (loaded .wdg [0x57, 0x44, 0x54, 0x20, 0x56, 0x31])) fun t =>
    t.lastErr = 0x03 := by decide +kernel
/-- 42_exchange_retry.md R251. -/
theorem test_sesProbe : Then (exec .sesProbe (closedWith .cctalk [[0x01, 0x00, 0x02, 0x00, 0xFD]])) fun t =>
    t.sesState = .identified ∧ t.devAvail = true ∧ t.portOpen = false ∧ t.serialTx = [0x02, 0x00, 0x01, 0xFE, 0xFF] := by
  decide +kernel
theorem test_sesProbe_silent : Then (exec .sesProbe (closedWith .cctalk [[]])) fun t =>
    t.lastErr = 0x08 ∧ t.sesState = .closed ∧ t.portOpen = false := by decide +kernel
/-- 42_exchange_retry.md R222 to R226. -/
theorem test_sesStart : Then (exec .sesStart { closedWith .cctalk [] with sesState := .identified, stopPoll := true })
    fun t => t.sesState = .polling ∧ t.portOpen = true ∧ t.stopPoll = false := by decide +kernel
theorem test_sesStop : Then (exec .sesStop { polling .cctalk [] with accSum := 5 }) fun t =>
    t.sesState = .closed ∧ t.portOpen = false ∧ t.accSum = 0 ∧ t.devAvail = true := by decide +kernel
theorem test_sesClose : Then (exec .sesClose { base .cctalk with sesState := .identified, devAvail := true }) fun t =>
    t.sesState = .closed ∧ t.devAvail = false := by decide +kernel
theorem test_sesClose_illegal : Then (exec .sesClose (polling .cctalk [])) fun t =>
    t.lastErr = 0x0A ∧ t.sesState = .polling := by decide +kernel
/-- 42_exchange_retry.md R250: one BUSY, one damaged reply, the answer. -/
theorem test_sesExchange : Then (exec (.sesExchange [0xFE] [])
    (polling .cctalk [[1, 1, 2, 0, 6, 0xF6], [1, 0, 2, 0, 0xFC], [1, 0, 2, 0, 0xFD]])) fun t =>
      t.lastErr = 0x00 ∧ t.result = .reply (.cct 0x02 0x00 []) ∧ t.nakCnt = 1 ∧ t.errCnt = 1 ∧
        t.serialTx.length = 15 := by decide +kernel
/-- 42_exchange_retry.md R252: always NAK. -/
theorem test_sesExchange_nak : Then (exec (.sesExchange [0xFE] []) (polling .cctalk (List.replicate 3 [1, 1, 2, 0, 5, 0xF7])))
    fun t => t.lastErr = 0x05 ∧ t.nakCnt = 3 ∧ t.fNakExh = true ∧ t.sesState = .polling := by decide +kernel
theorem test_sesStopreq : Then (exec .sesStopreq (base .cctalk)) fun t => t.stopPoll = true := by decide +kernel
/-- 43_escrow.md R300: a bill of 50 is stacked; R302: a stopped loop. -/
theorem test_sesCycle : Then (exec (.sesCycle 1000) (polling .cctalk [[1, 1, 2, 0, 0x32, 0xCA], [1, 0, 2, 0, 0xFD]])) fun t =>
    t.result = .cycle false true ∧ t.accSum = 50 ∧ t.lastCmd = .stack ∧ t.evq = [.statusChanged 2 50] := by decide +kernel
theorem test_sesCycle_stopped : Then (exec (.sesCycle 1000) { polling .cctalk [] with stopPoll := true }) fun t =>
    t.result = .cycle true false ∧ t.serialTx = [] := by decide +kernel
/-- 43_escrow.md R273, R275. -/
theorem test_escCfg : Then (exec (.escCfg 100 true) (base .cctalk)) fun t => t.maxSum = 100 ∧ t.rejectAboveMax = true := by
  decide +kernel
theorem test_escDberr : Then (exec (.escDberr true) (base .cctalk)) fun t => t.hasDbError = true := by decide +kernel
/-- 43_escrow.md R310, and the third row of R312. -/
theorem test_escPoll_max :
    Then (exec (.escPoll (.escrow 150) 1000) { polling .cctalk [] with maxSum := 100, rejectAboveMax := true }) fun t =>
      t.accSum = 0 ∧ t.result = .decision .ret true ∧ t.evq = [.statusChanged 2 150] := by decide +kernel
theorem test_escPoll_duplicate :
    Then (exec (.escPoll (.escrow 50) 1300) { polling .cctalk [] with
      escrowed := true, lastEscTime := 1000, lastCmd := .stack, accSum := 50, escPrev := some (.stacked 50) }) fun t =>
      t.evq = [.statusChanged 2 50, .nominalDuplicate 50] ∧ t.result = .decision .stack true ∧ t.accSum = 50 ∧
        t.pendAcc = false := by decide +kernel
/-- 44_at_decoder.md R332. -/
theorem test_atdEnc : Then (exec (.atdEnc [0x41, 0x54] false) (base .at)) fun t => t.txBytes = some [0x41, 0x54, 0x0D] := by
  decide +kernel

/-- The response `+CUSD: 0,"3199AB0603",15` and `OK` of 44_at_decoder.md R362. -/
def ussdBuffer : Bytes :=
  [0x0D, 0x0A, 0x2B, 0x43, 0x55, 0x53, 0x44, 0x3A, 0x20, 0x30, 0x2C, 0x22, 0x33, 0x31, 0x39, 0x39, 0x41, 0x42, 0x30, 0x36,
    0x30, 0x33, 0x22, 0x2C, 0x31, 0x35, 0x0D, 0x0A, 0x0D, 0x0A, 0x4F, 0x4B, 0x0D, 0x0A]

/-- The code points of `12.50`, and a USSD_MATCH that is absent on the raw text and finds them in the decoded one. -/
def balance : List Half := [0x31, 0x32, 0x2E, 0x35, 0x30]
def ussdState : State :=
  let s := loaded .at ussdBuffer
  { s with params := { s.params with
    ussdTable := [([0x33, 0x31, 0x39, 0x39, 0x41, 0x42, 0x30, 0x36, 0x30, 0x33], none), (balance, some balance)] } }

theorem test_atdDec : Then (exec .atdDec ussdState) fun t =>
    t.lastErr = 0x00 ∧ t.result = .reply (.at .success [0x4F, 0x4B] [ussdBuffer.extract 2 26] (ussdBuffer.extract 2 32)) := by
  decide +kernel
theorem test_atdUssd : Then (exec .atdUssd ussdState) fun t => t.result = .ussd balance .gsm7 := by decide +kernel
/-- 44_at_decoder.md R356, R360. -/
theorem test_gsm7 : gsm7Septets [0xE8, 0x32, 0x9B, 0xFD, 0x06] = [0x68, 0x65, 0x6C, 0x6C, 0x6F] := by decide +kernel
theorem test_ucs2 : ucs2Decode (unhex [0x30, 0x30, 0x33, 0x31, 0x30, 0x30, 0x33, 0x32]) = [0x31, 0x32] := by decide +kernel
/-- 30_encoding.md R90 to R103: the bytes of a frame wait in the RX stream. -/
theorem test_wireCctalk : Then (exec (.wireCctalk 1 2 0 []) (polling .cctalk [])) fun t =>
    t.serialRx = [0x01, 0x00, 0x02, 0x00, 0xFD] := by decide +kernel
theorem test_wireCcnet : Then (exec (.wireCcnet 0x03 0x33 []) (polling .ccnet [])) fun t =>
    t.serialRx = [0x02, 0x03, 0x06, 0x33, 0xDA, 0x81] := by decide +kernel
theorem test_wireEbds : Then (exec (.wireEbds 0x20 [0x41, 0x45]) (polling .ebds [])) fun t =>
    t.serialRx = [0x02, 0x07, 0x20, 0x41, 0x45, 0x03, 0x20] := by decide +kernel
theorem test_wireWatchdog : Then (exec (.wireWatchdog 0x7E) (polling .wdg [])) fun t =>
    t.serialRx = [0x4F, 0x53, 0x50, 0x7E] := by decide +kernel
theorem test_wireAt : Then (exec (.wireAt [0x41] false) (base .at)) fun t => t.serialRx = [] := by decide +kernel
/-- A table word runs as the next step (30_encoding.md R110). -/
theorem test_fetch : Then (step ((base .at).withFetchWord 8 0x35)) fun t => t.stopPoll = true := by decide +kernel
theorem test_tableWord : decodeTableWord 8 0x22 = some (.frmCctEnc 0 0 0 []) := by decide +kernel
/-- 30_encoding.md R120. -/
theorem test_undefined_op : Then (step ((base .at).withRequest [0x37])) fun t => t.lastErr = 0x0A := by decide +kernel

/-! ## Witnesses: states and operands that meet the hypotheses of the statements

The name after `wit_` is the statement's. A statement whose clauses have hypotheses of their own has one conjunct, or one
theorem, for each clause, at a boundary of its range. -/

theorem then_exists {o : Host.Outcome State Fault Refusal} {P : State → Prop} [DecidablePred P]
    (h : Then o (fun t => decide (P t)) = true) : ∃ t, o = .next t ∧ P t := by
  cases o with
  | next t => exact ⟨t, rfl, of_decide_eq_true h⟩
  | fault f => cases h
  | refused r => cases h

/-- The state with other buffer capacities. -/
def capped (s : State) (rxCap txCap : Nat) : State := { s with params := { s.params with rxCap := rxCap, txCap := txCap } }

/-- A reply of the device of the instance: an empty cctalk frame, its BUSY, and a damaged one. -/
def okReply : Bytes := [0x01, 0x00, 0x02, 0x00, 0xFD]
def busyReply : Bytes := [0x01, 0x01, 0x02, 0x00, 0x06, 0xF6]
def badReply : Bytes := [0x01, 0x00, 0x02, 0x00, 0xFC]
/-- A reply that the instance's INTERPRET reads as Escrow(50). -/
def billReply : Bytes := [0x01, 0x01, 0x02, 0x00, 0x32, 0xCA]
def pollFrame : Bytes := [0x02, 0x00, 0x01, 0xFE, 0xFF]

/-! ### The step, requests and frames -/

theorem wit_StepRunsDecodedRequest :
    ((base .at).withRequest [0x15, 0x02, 0xEE]).pending = [.request [0x15, 0x02, 0xEE]] ∧
      Decode.request [0x15, 0x02, 0xEE] = .ok (.chkC16Upd 0x02, [0xEE]) := ⟨rfl, rfl⟩

theorem wit_StepTakesOtherInputs :
    ({ base .wdg with pending := [.line [0x4F, 0x53, 0x50, 0x01]] }.pending = [.line [0x4F, 0x53, 0x50, 0x01]] ∧
      Decode.wire (paramsOf .wdg) [0x4F, 0x53, 0x50, 0x01] = some (.wireWatchdog 0x01)) ∧
    ({ base .wdg with pending := [.line [0x76]] }.pending = [.line [0x76]] ∧ Decode.wire (paramsOf .wdg) [0x76] = none) ∧
    { base .wdg with pending := [.takeEvent] }.pending = [.takeEvent] ∧ (base .wdg).pending = [] := by decide +kernel

theorem wit_UndefinedOpSelectIsIllegal :
    ((base .at).withRequest [0xFF, 0x00]).pending = [.request (0xFF :: [0x00])] ∧
    ∀ op ∈ [0x01#8, 0x0F, 0x13, 0x1F, 0x2B, 0x37, 0x53, 0xFF], op.toNat ∉ [0x00, 0x10, 0x11, 0x12, 0x14, 0x15, 0x16, 0x18,
      0x19, 0x1A, 0x20, 0x22, 0x23, 0x24, 0x25, 0x26, 0x27, 0x28, 0x29, 0x2A, 0x30, 0x31, 0x32, 0x33, 0x34, 0x35, 0x36, 0x40,
      0x41, 0x42, 0x50, 0x51, 0x52] := by decide +kernel

theorem wit_RequestDecodesItsEncoding :
    WellFormed (.frmLoad (List.replicate 65535 0)) ∧ isWire (.frmLoad (List.replicate 65535 0)) = false :=
  ⟨Nat.le_of_eq List.length_replicate, rfl⟩

theorem wit_RequestDecodesItsEncoding_default : WellFormed (.atdEnc (List.replicate 65535 0) false) :=
  Nat.le_of_eq List.length_replicate

/-- A byte is left over; the last operand is left out. -/
theorem wit_AcceptedRequestIsItsEncoding :
    Decode.request [0x27, 0x01, 0x55] = .ok (.frmEbdDec true, [0x55]) ∧
    Decode.request [0x50, 0x02, 0x00, 0x41, 0x54] = .ok (.atdEnc [0x41, 0x54] false, []) := ⟨rfl, rfl⟩

theorem wit_LineFrameDecodesItsEncoding :
    (WellFormed (.wireCctalk 1 2 0 (List.replicate 255 0)) ∧
      wireProto (.wireCctalk 1 2 0 (List.replicate 255 0)) = some (paramsOf .cctalk).proto) ∧
    (WellFormed (.wireCcnet 3 0 (List.replicate 249 0)) ∧
      wireProto (.wireCcnet 3 0 (List.replicate 249 0)) = some (paramsOf .ccnet).proto) ∧
    (WellFormed (.wireEbds 1 (List.replicate 250 0)) ∧
      wireProto (.wireEbds 1 (List.replicate 250 0)) = some (paramsOf .ebds).proto) ∧
    (WellFormed (.wireWatchdog 0xFF) ∧ wireProto (.wireWatchdog 0xFF) = some (paramsOf .wdg).proto) ∧
    (WellFormed (.wireAt [0x1A] false) ∧ wireProto (.wireAt [0x1A] false) = some (paramsOf .at).proto) := by
  decide +kernel

theorem wit_RecognisedFrameIsItsEncoding :
    Decode.wire (paramsOf .ccnet) [0x02, 0x03, 0x06, 0x33, 0xDA, 0x81] = some (.wireCcnet 0x03 0x33 []) := by decide +kernel

/-! ### CHK and FRM -/

theorem wit_ChecksumsSeeOneChangedByte : (0x00 : Byte) ≠ 0x80 := by decide

theorem wit_ChecksumRegistersIndependent :
    (∃ t, exec .sesStopreq (base .at) = .next t ∧ t.stopPoll = true) ∧ Instr.sesStopreq ≠ .sysReset ∧
      Instr.sesStopreq ≠ .chkS8Init ∧ (∀ b, Instr.sesStopreq ≠ .chkS8Upd b) ∧ Instr.sesStopreq ≠ .chkC16Init ∧
      (∀ b, Instr.sesStopreq ≠ .chkC16Upd b) ∧ Instr.sesStopreq ≠ .chkX8Init ∧ ∀ b, Instr.sesStopreq ≠ .chkX8Upd b :=
  ⟨then_exists (by decide +kernel), by decide, by decide, nofun, by decide, nofun, by decide, nofun⟩

theorem wit_FrmLoadResult :
    let s := capped (base .at) 4 4
    [(0 : Byte), 0, 0, 0].length ≤ s.params.rxCap ∧ s.params.rxCap < [(0 : Byte), 0, 0, 0, 0].length := by decide +kernel

theorem wit_CctEncodeResult :
    let p := List.replicate 255 (0 : Byte)
    (p.length ≤ 255 ∧ p.length + 5 ≤ (capped (base .cctalk) 4 260).params.txCap) ∧
    (capped (base .cctalk) 4 259).params.txCap < p.length + 5 ∧ 255 < (0 :: p).length := by decide +kernel

theorem wit_CcnEncodeResult :
    let p := List.replicate 249 (0 : Byte)
    (p.length ≤ 249 ∧ p.length + 6 ≤ (capped (base .ccnet) 4 255).params.txCap) ∧
    (capped (base .ccnet) 4 254).params.txCap < p.length + 6 ∧ 249 < (0 :: p).length := by decide +kernel

theorem wit_EbdEncodeResult :
    let p := List.replicate 250 (0 : Byte)
    let s := capped (base .ebds) 4 255
    (p.length ≤ 250 ∧ p.length + 5 ≤ s.params.txCap ∧ 0xFE#8 &&& 1#8 <<< s.params.ebdAckBit.val = 0) ∧
    (capped (base .ebds) 4 254).params.txCap < p.length + 5 ∧ 250 < (0 :: p).length ∧
    0x01#8 &&& 1#8 <<< s.params.ebdAckBit.val ≠ 0 := by decide +kernel

theorem wit_WatchdogOperations :
    4 ≤ (capped (base .wdg) 4 4).params.txCap ∧ (capped (base .wdg) 4 3).params.txCap < 4 ∧
    (loaded .wdg [0x4F, 0x53, 0x50, 0x7E]).rxBytes = some [0x4F, 0x53, 0x50, 0x7E] ∧
    ((loaded .wdg [0x4F, 0x53, 0x50]).rxBytes = some [0x4F, 0x53, 0x50] ∧
      ∀ cmd, [0x4F#8, 0x53, 0x50] ≠ [0x4F, 0x53, 0x50, cmd]) ∧
    ((loaded .wdg [0x20, 0x76, 0x31]).rxBytes = some [0x20, 0x76, 0x31] ∧
      ∃ i : Nat, [0x20#8, 0x76, 0x31][i]? = some 0x76 ∧ [0x20#8, 0x76, 0x31][i + 1]? = some 0x31) ∧
    ((loaded .wdg []).rxBytes = some [] ∧
      ∀ i : Nat, ¬ (([] : Bytes)[i]? = some 0x76 ∧ ([] : Bytes)[i + 1]? = some 0x31)) :=
  ⟨by decide, by decide, by decide +kernel, ⟨by decide +kernel, fun _ h => by cases h⟩,
    ⟨by decide +kernel, 1, rfl, rfl⟩, by decide +kernel, fun _ h => (nomatch h.1)⟩

/-- A buffer for each arm of the chain of checks: too short, wrong address, wrong length, wrong check byte, a frame. -/
theorem wit_CctDecodeChecks :
    ∀ rx ∈ [[], [0x02, 0x00, 0x01, 0x00, 0xFD], [0x01, 0x01, 0x02, 0x00, 0xFD], badReply, okReply],
      (loaded .cctalk rx).rxBytes = some rx := by decide +kernel

/-- A frame after one byte of noise: the candidate at 1 is valid and none before it is. -/
theorem wit_CcnDecodeScan :
    let rx := [0xAA#8, 0x02, 0x03, 0x06, 0x33, 0xDA, 0x81]
    (loaded .ccnet rx).rxBytes = some rx ∧ CcnValid (paramsOf .ccnet) rx 1 6 ∧
      ∀ j m, j < 1 → ¬ CcnValid (paramsOf .ccnet) rx j m := by
  refine ⟨by decide +kernel, by decide +kernel, fun j m hj h => ?_⟩
  obtain rfl : j = 0 := by omega
  exact absurd h.1.1 (by decide)

/-- A whole candidate with a wrong CRC, and no valid one. -/
theorem wit_CcnDecodeScan_crc :
    let rx := [0x02#8, 0x03, 0x06, 0x33, 0xDA, 0x80]
    (loaded .ccnet rx).rxBytes = some rx ∧ (∀ i len, ¬ CcnValid (paramsOf .ccnet) rx i len) ∧ ∃ i len, CcnWhole rx i len := by
  refine ⟨by decide +kernel, fun i len h => ?_, 0, 6, by decide +kernel⟩
  have hb : i + len ≤ 6 := h.1.2.2.2
  obtain ⟨rfl, rfl⟩ : i = 0 ∧ len = 6 := ⟨by have := h.1.2.2.1; omega, by have := h.1.2.2.1; omega⟩
  exact absurd h.2 (by decide +kernel)

/-- No whole candidate: the length overruns the buffer by one. -/
theorem wit_CcnDecodeScan_short :
    let rx := [0x02#8, 0x03, 0x07, 0x33, 0xDA, 0x81]
    (loaded .ccnet rx).rxBytes = some rx ∧ ∀ i len, ¬ CcnWhole rx i len := by
  refine ⟨by decide +kernel, fun i len h => ?_⟩
  have hb : i + len ≤ 6 := h.2.2.2
  obtain ⟨rfl, rfl⟩ : i = 0 ∧ len = 6 := ⟨by have := h.2.2.1; omega, by have := h.2.2.1; omega⟩
  exact absurd h.2.1 (by decide +kernel)

/-- A buffer for each arm of the chain of checks: delimiters or length, check byte, a frame, a frame with the marker. -/
theorem wit_EbdDecodeChecks :
    ∀ rx ∈ [[], [0x02, 0x05, 0x10, 0x02, 0x17], [0x02, 0x05, 0x10, 0x03, 0x17], [0x02, 0x05, 0x10, 0x03, 0x16],
      [0x02, 0x06, 0x10, 0x70, 0x03, 0x65]], (loaded .ebds rx).rxBytes = some rx := by decide +kernel

/-- A payload that no watchdog or AT frame carries. -/
theorem wit_payload_clauses :
    (paramsOf .wdg).proto = .wdg ∧ (paramsOf .at).proto = .at ∧ [0x00#8] ≠ [] := by decide +kernel

/-- The clauses on exchanges: the family of the instance and the addresses of its parameters. -/
theorem wit_exchange_clauses :
    ((paramsOf .cctalk).proto = .cctalk ∧ 0x02 = (paramsOf .cctalk).cctDevAddr ∧ 0x01 = (paramsOf .cctalk).cctHostAddr) ∧
    ((paramsOf .ccnet).proto = .ccnet ∧ 0x03 = (paramsOf .ccnet).ccnAddr) ∧ (paramsOf .ebds).proto = .ebds ∧
    (paramsOf .wdg).proto = .wdg ∧ (paramsOf .at).proto = .at := by decide +kernel

theorem wit_FrameRoundTrips :
    let s := capped (base .ebds) 260 260
    ((List.replicate 255 (0 : Byte)).length ≤ 255 ∧ 255 + 5 ≤ s.params.txCap ∧ 255 + 5 ≤ s.params.rxCap) ∧
    ((List.replicate 249 (0 : Byte)).length ≤ 249 ∧ 249 + 6 ≤ s.params.txCap) ∧
    ((List.replicate 250 (0 : Byte)).length ≤ 250 ∧ 250 + 5 ≤ s.params.txCap ∧ 0xFE#8 &&& 1#8 <<< s.params.ebdAckBit.val = 0) ∧
    4 ≤ s.params.txCap ∧ ([] : Bytes).head? ≠ some 0x70 ∧ [0x70#8].head? = some 0x70 := by decide +kernel

/-- The first and the last byte of a frame changed, per family. -/
theorem wit_DamagedFrameErrors :
    (∀ k ∈ [0, 1, 4], k < ([] : Bytes).length + 5 ∧ (cctFrame 0x02 0x01 0xFE [])[k]? ≠ some 0x55 ∧
      (loaded .cctalk ((cctFrame 0x02 0x01 0xFE []).set k 0x55)).rxBytes =
        some ((cctFrame 0x02 0x01 0xFE []).set k 0x55)) ∧
    (∀ k ∈ [0, 2, 3, 4], k < ([] : Bytes).length + 5 ∧ (ebdFrame (paramsOf .ebds) 0x10 [])[k]? ≠ some 0x55 ∧
      (loaded .ebds ((ebdFrame (paramsOf .ebds) 0x10 []).set k 0x55)).rxBytes =
        some ((ebdFrame (paramsOf .ebds) 0x10 []).set k 0x55)) ∧
    ∀ k ∈ [0, 3], k < 4 ∧ (wdgFrame 0x01)[k]? ≠ some 0x55 ∧
      (loaded .wdg ((wdgFrame 0x01).set k 0x55)).rxBytes = some ((wdgFrame 0x01).set k 0x55) := by decide +kernel

/-- CCNET: the address, the CRC, SYNC and the length changed; no later candidate is whole. -/
theorem wit_DamagedFrameErrors_ccnet :
    (∀ k ∈ [0, 1, 2, 5], k < ([] : Bytes).length + 6 ∧ (ccnFrame (paramsOf .ccnet) 0x03 0x33 [])[k]? ≠ some 0x55 ∧
      (loaded .ccnet ((ccnFrame (paramsOf .ccnet) 0x03 0x33 []).set k 0x55)).rxBytes =
        some ((ccnFrame (paramsOf .ccnet) 0x03 0x33 []).set k 0x55)) ∧
    (∀ k ∈ [0, 1, 2, 5], ∀ i len, 1 ≤ i → ¬ CcnWhole ((ccnFrame (paramsOf .ccnet) 0x03 0x33 []).set k 0x55) i len) ∧
    ∀ i len, ¬ CcnWhole ((ccnFrame (paramsOf .ccnet) 0x03 0x33 []).set 2 0x55) i len := by
  have short : ∀ k i len, 1 ≤ i → ¬ CcnWhole ((ccnFrame (paramsOf .ccnet) 0x03 0x33 []).set k 0x55) i len := by
    intro k i len hi h
    have h6 := h.2.2.1
    have hb := h.2.2.2
    simp [ccnFrame] at hb
    omega
  refine ⟨by decide +kernel, fun k _ => short k, fun i len h => ?_⟩
  have h6 := h.2.2.1
  have hb : i + len ≤ 6 := h.2.2.2
  obtain ⟨rfl, rfl⟩ : i = 0 ∧ len = 6 := by omega
  exact absurd h.2.1 (by decide +kernel)

/-- CCNET: SYNC and the length changed in a frame whose payload starts a second candidate, whose CRC fails. -/
theorem wit_DamagedFrameErrors_ccnet_inner :
    ∀ k ∈ [0, 2],
      let rx := (ccnFrame (paramsOf .ccnet) 0x03 0x33 [0x02, 0x00, 0x06, 0x00]).set k 0x55
      (loaded .ccnet rx).rxBytes = some rx ∧ (∃ i len, 1 ≤ i ∧ CcnWhole rx i len) ∧
      ∀ i len, ¬ CcnValid (paramsOf .ccnet) rx i len := by
  intro k hk
  refine ⟨by revert k; decide +kernel, ⟨4, 6, by revert k; decide +kernel⟩, fun i len h => ?_⟩
  have hb := h.1.2.2.2
  have h6 := h.1.2.2.1
  simp [ccnFrame] at hb
  have none_valid : ∀ k ∈ [0, 2], ∀ i < 5, ∀ len < 11,
      ¬ CcnValid (paramsOf .ccnet) ((ccnFrame (paramsOf .ccnet) 0x03 0x33 [0x02, 0x00, 0x06, 0x00]).set k 0x55) i len := by
    decide +kernel
  exact none_valid k hk i (by omega) len (by omega) h

/-! ### ATD -/

theorem wit_AtdEncodeResult :
    let s := capped (base .at) 4 3
    ¬ (s.params.txCap < [0x41#8, 0x54].length + 1 ∨ 0x0D#8 ∈ [0x41#8, 0x54] ∨ 0x0A#8 ∈ [0x41#8, 0x54] ∨
      (true = true ∧ 0x1A#8 ∈ [0x41#8, 0x54])) ∧
    s.params.txCap < [0x41#8, 0x54, 0x5A].length + 1 ∧ 0x0D#8 ∈ [0x0D#8] ∧ 0x0A#8 ∈ [0x0A#8] ∧ 0x1A#8 ∈ [0x1A#8] := by
  decide +kernel

/-- One pair only; two pairs with nothing between; information lines and a terminal line. -/
theorem wit_AtdDecodeResponse :
    ((loaded .at [0x0D, 0x0A]).rxBytes = some [0x0D, 0x0A] ∧
      ((List.range 2).filter fun i => CrlfAt [0x0D, 0x0A] i).length < 2) ∧
    ((loaded .at [0x0D, 0x0A, 0x0D, 0x0A]).rxBytes = some [0x0D, 0x0A, 0x0D, 0x0A] ∧
      ((List.range 4).filter fun i => CrlfAt [0x0D, 0x0A, 0x0D, 0x0A] i) = [0, 2]) ∧
    (ussdState.rxBytes = some ussdBuffer ∧
      ((List.range ussdBuffer.length).filter fun i => CrlfAt ussdBuffer i) = [0, 26, 28, 32]) := by decide +kernel

theorem wit_UssdEnvelope :
    ussdState.rxBytes = some ussdBuffer ∧ EnvelopeAt ussdBuffer 2 ∧ (∀ j, j < 2 → ¬ EnvelopeAt ussdBuffer j) ∧
    2 + 10 ≤ 22 ∧ ussdBuffer[22]? = some 0x22 ∧ ∀ j, j < 22 → 2 + 10 ≤ j → ussdBuffer[j]? ≠ some 0x22 := by decide +kernel

/-- The opening is missing; the opening is there and the closing quote is not. -/
theorem wit_UssdEnvelope_none :
    ((loaded .at []).rxBytes = some [] ∧ ∀ i, ¬ EnvelopeAt [] i) ∧
    ((loaded .at cusdOpening).rxBytes = some cusdOpening ∧ EnvelopeAt cusdOpening 0 ∧
      ∀ j, 0 + 10 ≤ j → cusdOpening[j]? ≠ some 0x22) := by
  refine ⟨⟨by decide +kernel, fun i h => ?_⟩, by decide +kernel, by decide +kernel, fun j hj => ?_⟩
  · simp [EnvelopeAt, slice] at h
  · rw [List.getElem?_eq_none (by simpa [cusdOpening] using hj)]
    simp

/-- The plain text matches; it does not and the GSM text does; neither does and the UCS2 text does; nothing does. -/
theorem wit_UssdChainOrder :
    let none? := fun p text => ∀ m : List Half, ¬ (ussdMatch p text = some m ∧ m ≠ [])
    (ussdMatch (paramsOf .at) ([0x31#8, 0x32].map fun b => b.setWidth 16) = some [0x31] ∧ [0x31#16] ≠ []) ∧
    (none? ussdState.params ((ussdBuffer.extract 12 22).map fun b => b.setWidth 16) ∧
      hexOk (ussdBuffer.extract 12 22) = true ∧
      ussdMatch ussdState.params (gsm7Decode ussdState.params (unhex (ussdBuffer.extract 12 22))) = some balance ∧ balance ≠ []) ∧
    (none? (paramsOf .at) (ucs31.map fun b => b.setWidth 16) ∧ none? (paramsOf .at) (gsm7Decode (paramsOf .at) (unhex ucs31)) ∧
      hexOk ucs31 = true ∧ ucs31.length % 4 = 0 ∧
      ussdMatch (paramsOf .at) (ucs2Decode (unhex ucs31)) = some [0x31] ∧ [0x31#16] ≠ []) ∧
    (none? (paramsOf .at) ([0x48#8].map fun b => b.setWidth 16) ∧ hexOk [0x48] = false) := by
  have absent : ∀ {p : Params} {text : List Half}, ussdMatch p text = none →
      ∀ m : List Half, ¬ (ussdMatch p text = some m ∧ m ≠ []) := fun h m hm => by rw [h] at hm; cases hm.1
  exact ⟨by decide +kernel, ⟨absent (by decide +kernel), by decide +kernel⟩,
    ⟨absent (by decide +kernel), absent (by decide +kernel), by decide +kernel⟩,
    absent (by decide +kernel), by decide +kernel⟩

theorem wit_Gsm7Unpacking :
    (gsm7Septets [0xE8, 0x32, 0x9B, 0xFD, 0x06])[4]? = some 0x6F ∧
    ∀ v ∈ [0x20, 0x3F, 0x41, 0x5A, 0x61, 0x7A],
      (0x20 ≤ v ∧ v ≤ 0x3F ∧ v ≠ 0x24) ∨ (0x41 ≤ v ∧ v ≤ 0x5A) ∨ (0x61 ≤ v ∧ v ≤ 0x7A) := by decide +kernel

theorem wit_HexAndUcs2Decoding :
    hexOk [0x30, 0x46] = true ∧ hexOk [0x48] = false ∧ ([0x30#8, 0x46][2 * 0]? = some 0x30 ∧ [0x30#8, 0x46][2 * 0 + 1]? = some 0x46) ∧
    (∀ b ∈ [0x30#8, 0x39], 0x30 ≤ b.toNat ∧ b.toNat ≤ 0x39) ∧ (∀ b ∈ [0x41#8, 0x46], 0x41 ≤ b.toNat ∧ b.toNat ≤ 0x46) ∧
    (∀ b ∈ [0x61#8, 0x66], 0x61 ≤ b.toNat ∧ b.toNat ≤ 0x66) ∧
    ([0x00#8, 0x31].length % 2 = 0 ∧ [0x00#8, 0x31][2 * 0]? = some 0x00 ∧ [0x00#8, 0x31][2 * 0 + 1]? = some 0x31) := by
  decide +kernel

/-! ### SES -/

theorem wit_RefusedOutsideLegalState :
    (polling .cctalk []).sesState ≠ .closed ∧ (polling .cctalk []).sesState ≠ .identified ∧
    (base .cctalk).sesState ≠ .polling ∧ (base .cctalk).sesState = .closed := by decide +kernel

/-- The only others that end with ILLEGAL: a cycle whose command fits no frame. -/
theorem wit_RefusedOutsideLegalState_misfit :
    let s := { polling .cctalk [] with params := { paramsOf .cctalk with cmdPoll := [] } }
    (s.portOpen = true ↔ s.sesState = .polling) ∧ ∃ t, exec (.sesCycle 0) s = .next t ∧ t.lastErr = 0x0A :=
  ⟨by decide, then_exists (by decide +kernel)⟩

/-- An operation between operations that ends with ILLEGAL. -/
theorem wit_RefusedOutsideLegalState_only :
    isWire .sesStop = false ∧ (base .cctalk).sesState ≠ .probing ∧
    ((base .cctalk).portOpen = true ↔ (base .cctalk).sesState = .polling) ∧
    ∃ t, exec .sesStop (base .cctalk) = .next t ∧ t.lastErr = 0x0A :=
  ⟨rfl, by decide, by decide, then_exists (by decide +kernel)⟩

theorem wit_SessionStateOperations :
    let found := { closedWith .cctalk [] with sesState := .identified, devAvail := true }
    (found.sesState = .identified ∧ found.openAnswer = true) ∧ { found with openScript := [false] }.openAnswer = false ∧
    (polling .cctalk []).sesState = .polling ∧ (base .cctalk).sesState ≠ .identified ∧
    (base .cctalk).sesState ≠ .polling := by
  decide +kernel

theorem wit_ProbeIdentifiesDevice :
    let s := closedWith .cctalk [okReply]
    s.sesState = .closed ∧ s.openScript = true :: [] ∧ s.writeScript = true :: [] ∧ s.readScript = okReply :: [] ∧
    encodeExchange s.params s.ebdAck (identCommand s.params) [] = some pollFrame ∧ okReply.take s.params.rxCap ≠ [] ∧
    (decodeReply s.ebdAck (okReply.take s.params.rxCap) s).2 = .ok (.cct 0x02 0x00 []) ∧
    nakBusy s.params (.cct 0x02 0x00 []) = false ∧ signature s.params (.cct 0x02 0x00 []) = true ∧
    s.params.probeFollowups = [] := by decide +kernel

/-- A probe with follow-ups: the first is not answered and keeps its place, the second is; and one whose port fails. -/
def followState (writes : List Bool) : State :=
  let s := closedWith .cctalk [okReply, [], okReply]
  { s with params := { s.params with probeFollowups := [([0xF6], []), ([0xF5], [])] }, writeScript := writes }

theorem wit_ProbeIdentifiesDevice_followups :
    let s := followState [true, true, true]
    s.sesState = .closed ∧ s.openAnswer = true ∧
    ∃ a, exec (.sesExchange (identCommand s.params) []) s.probing = .next a ∧ a.lastErr = 0x00 ∧
      a.result = .reply (.cct 0x02 0x00 []) ∧ signature s.params (.cct 0x02 0x00 []) = true ∧
      ∃ t, followupRun s.params.probeFollowups { a with devAvail := true } =
        (t, some [(0x06, .none), (0x00, .reply (.cct 0x02 0x00 []))]) :=
  ⟨rfl, rfl, _, rfl, by decide +kernel, by decide +kernel, by decide +kernel, _,
    Prod.ext rfl (by decide +kernel)⟩

theorem wit_ProbeIdentifiesDevice_portError :
    let s := followState [true, false]
    s.sesState = .closed ∧ s.openAnswer = true ∧
    ∃ a, exec (.sesExchange (identCommand s.params) []) s.probing = .next a ∧ a.lastErr = 0x00 ∧
      a.result = .reply (.cct 0x02 0x00 []) ∧ signature s.params (.cct 0x02 0x00 []) = true ∧
      ∃ t, followupRun s.params.probeFollowups { a with devAvail := true } = (t, none) :=
  ⟨rfl, rfl, _, rfl, by decide +kernel, by decide +kernel, by decide +kernel, _,
    Prod.ext rfl (by decide +kernel)⟩

/-- The invariant holds of a closed and of a polling state, whatever the device is about to answer. -/
theorem inv_closed (proto : Proto) (answers : List Bytes) : Inv (closedWith proto answers) := by
  constructor <;> simp [closedWith, base, paramsOf, State.reset, BufferOk, Memory.wf, EscCleared]

theorem inv_polling (proto : Proto) (answers : List Bytes) : Inv (polling proto answers) := by
  constructor <;> simp [polling, base, paramsOf, State.reset, BufferOk, Memory.wf, EscCleared]

theorem wit_ProbeAlwaysClosesPort :
    Inv (closedWith .cctalk [okReply]) ∧ (closedWith .cctalk [okReply]).sesState = .closed ∧
      ∃ t, exec .sesProbe (closedWith .cctalk [okReply]) = .next t ∧ t.sesState = .identified :=
  ⟨inv_closed _ _, rfl, then_exists (by decide +kernel)⟩

/-- The port does not open; the identification ends with PortError, Exhausted, Timeout, SizeError, or with a reply that
lacks the signature. -/
theorem wit_ProbeAlwaysClosesPort_causes :
    let ident := fun s : State => exec (.sesExchange (identCommand s.params) []) s.probing
    let noCommand := closedWith .cctalk []
    ((closedWith .cctalk []).sesState = .closed ∧ { closedWith .cctalk [] with openScript := [false] }.openAnswer = false ∧
      (closedWith .cctalk []).openAnswer = true) ∧
    (∃ a, ident { closedWith .cctalk [] with writeScript := [false] } = .next a ∧ a.lastErr = 0x07) ∧
    (∃ a, ident (closedWith .cctalk (List.replicate 3 badReply)) = .next a ∧ a.lastErr = 0x05) ∧
    (∃ a, ident (closedWith .cctalk [[]]) = .next a ∧ a.lastErr = 0x06) ∧
    (∃ a, ident { noCommand with params := { noCommand.params with cmdIdent := [] } } = .next a ∧ a.lastErr = 0x09) ∧
    ∃ a, ident (closedWith .cctalk [[0x01, 0x00, 0x03, 0x00, 0xFC]]) = .next a ∧ a.lastErr = 0x00 ∧
      a.result = .reply (.cct 0x03 0x00 []) ∧ signature (paramsOf .cctalk) (.cct 0x03 0x00 []) = false :=
  ⟨by decide +kernel, then_exists (by decide +kernel), then_exists (by decide +kernel), then_exists (by decide +kernel),
    then_exists (by decide +kernel), then_exists (by decide +kernel)⟩

theorem wit_IdentitySignatures :
    ((paramsOf .cctalk).cctHostAddr = 0x01 ∧ cctDecode 0x01 okReply = .ok (0x02, 0x00, [])) ∧
    (paramsOf .ccnet).proto = .ccnet ∧ (paramsOf .ebds).proto ≠ .ccnet := by decide +kernel

theorem wit_ExchangeAnswered :
    let s := polling .cctalk [okReply]
    let rx := (s.serialRx ++ okReply).take s.params.rxCap
    s.sesState = .polling ∧ s.portOpen = true ∧ s.writeScript = true :: [] ∧ s.readScript = okReply :: [] ∧
    encodeExchange s.params s.ebdAck [0xFE] [] = some pollFrame ∧ rx ≠ [] ∧
    (decodeReply s.ebdAck rx s).2 = .ok (.cct 0x02 0x00 []) ∧ nakBusy s.params (.cct 0x02 0x00 []) = false := by
  decide +kernel

theorem wit_ExchangeTimesOut :
    let s := polling .cctalk [[]]
    s.sesState = .polling ∧ s.portOpen = true ∧ s.serialRx = [] ∧ s.writeScript = true :: [] ∧ s.readScript = [] :: [] ∧
    encodeExchange s.params s.ebdAck [0xFE] [] = some pollFrame := by decide +kernel

theorem wit_PortFailureTearsDown :
    let s := { polling .cctalk [] with writeScript := [false] }
    s.sesState = .polling ∧ s.portOpen = true ∧ s.writeScript = false :: [] ∧
    encodeExchange s.params s.ebdAck [0xFE] [] = some pollFrame := by decide +kernel

/-- Both values of the NAK/BUSY parameter. -/
theorem wit_DecodeMicroStep_fields :
    (paramsOf .cctalk).cctNakBusyField = .payload ∧
    { paramsOf .cctalk with cctNakBusyField := .command }.cctNakBusyField = .command := ⟨rfl, rfl⟩

/-- Counters one below their bounds and two below; an error, a BUSY and a good reply. -/
theorem wit_DecodeMicroStep :
    let s := polling .cctalk []
    (decodeReply false badReply s).2 = .error .checksum ∧ (decodeReply false busyReply s).2 = .ok (.cct 0x02 0x00 [0x06]) ∧
    nakBusy s.params (.cct 0x02 0x00 [0x06]) = true ∧ (decodeReply false okReply s).2 = .ok (.cct 0x02 0x00 []) ∧
    nakBusy s.params (.cct 0x02 0x00 []) = false ∧
    { s with errCnt := 1 }.errCnt.toNat + 1 < maxErr s.params ∧ maxErr s.params = { s with errCnt := 2 }.errCnt.toNat + 1 ∧
    { s with nakCnt := 1 }.nakCnt.toNat + 1 < maxNak s.params ∧
    maxNak s.params = { s with nakCnt := 2 }.nakCnt.toNat + 1 := by decide +kernel

theorem wit_AlwaysRefusedSendsBound :
    ∀ rx ∈ [busyReply, badReply],
      let s := polling .cctalk (List.replicate 3 rx)
      s.sesState = .polling ∧ s.portOpen = true ∧ s.serialRx = [] ∧
      encodeExchange s.params s.ebdAck [0xFE] [] = some pollFrame ∧ rx ≠ [] ∧ rx.length ≤ s.params.rxCap ∧
      s.writeScript = List.replicate 3 true ++ [] ∧ s.readScript = List.replicate 3 rx ++ [] ∧ ParamsBoundsOk s.params ∧
      3 = maxNak s.params ∧ 3 = maxErr s.params ∧
      ((decodeReply s.ebdAck rx s).2 = .ok (.cct 0x02 0x00 [0x06]) ∧ nakBusy s.params (.cct 0x02 0x00 [0x06]) = true ∨
        (decodeReply s.ebdAck rx s).2 = .error .checksum) := by decide +kernel

theorem wit_AlwaysRefusedSendsBound_families :
    (paramsOf .cctalk).proto = .cctalk ∧ (paramsOf .ccnet).proto = .ccnet ∧ (paramsOf .ebds).proto = .ebds ∧
    (paramsOf .wdg).proto = .wdg ∧ (paramsOf .at).proto = .at := by decide +kernel

theorem wit_ExchangeTransmissionBound :
    let s := polling .cctalk [busyReply, badReply, okReply]
    (ParamsBoundsOk s.params ∧ s.sesState = .polling ∧ s.portOpen = true ∧
      encodeExchange s.params s.ebdAck [0xFE] [] = some pollFrame) ∧
    ∃ t, exec (.sesExchange [0xFE] []) s = .next t ∧ t.lastErr = 0x00 := ⟨by decide +kernel, then_exists (by decide +kernel)⟩

/-- The other two ends: Exhausted and PortError. -/
theorem wit_ExchangeTransmissionBound_ends :
    (∃ t, exec (.sesExchange [0xFE] []) (polling .cctalk (List.replicate 3 badReply)) = .next t ∧ t.lastErr = 0x05) ∧
    ∃ t, exec (.sesExchange [0xFE] []) { polling .cctalk [okReply] with writeScript := [false] } = .next t ∧
      t.sesState = .closed := ⟨then_exists (by decide +kernel), then_exists (by decide +kernel)⟩

theorem wit_AlternatingBitPerExchange :
    ParamsBoundsOk (polling .ebds [[]]).params ∧
      ∃ t, exec (.sesExchange [0x10] []) (polling .ebds [[]]) = .next t ∧ t.ebdAck = true :=
  ⟨by decide +kernel, then_exists (by decide +kernel)⟩

theorem wit_AlternatingBitPerExchange_framers :
    (∃ t, exec (.frmEbdEnc 0x10 []) (base .ebds) = .next t ∧ t.lastErr = 0x00) ∧
    ∃ t, exec (.frmEbdDec false) (loaded .ebds [0x02, 0x05, 0x10, 0x03, 0x16]) = .next t ∧ t.lastErr = 0x00 :=
  ⟨then_exists (by decide +kernel), then_exists (by decide +kernel)⟩

/-- No frame can be encoded: a payload on the watchdog, a command of two bytes on cctalk. -/
theorem wit_ExchangeFrame_refused :
    (polling .wdg []).sesState = .polling ∧ (polling .wdg []).portOpen = true ∧
    encodeExchange (paramsOf .wdg) false [0x01] [0x00] = none ∧ (paramsOf .cctalk).proto ≠ .at ∧
    [0x01#8, 0x02].length ≠ 1 := by decide +kernel

theorem wit_ExchangeFrame :
    (∃ t, exec (.sesExchange [0xFE] []) (polling .cctalk [okReply]) = .next t ∧ t.lastErr = 0x00) ∧
    (∃ t, exec (.sesExchange [] []) (polling .cctalk [okReply]) = .next t ∧ t.lastErr = 0x09) ∧
    ∃ t, exec (.sesExchange [] []) (base .cctalk) = .next t ∧ t.lastErr = 0x0A :=
  ⟨then_exists (by decide +kernel), then_exists (by decide +kernel), then_exists (by decide +kernel)⟩

/-- The device answers the poll with a bill, and the stack command. -/
def cycleState : State := polling .cctalk [billReply, okReply]

theorem wit_CycleIsPollDecideCommand :
    cycleState.sesState = .polling ∧ cycleState.stopPoll = false ∧
    ∃ a b d, exec (.sesExchange cycleState.params.cmdPoll []) cycleState = .next a ∧ a.lastErr = 0x00 ∧
      a.result = .reply (.cct 0x02 0x00 [0x32]) ∧
      exec (.escPoll (interpret cycleState.params (.cct 0x02 0x00 [0x32])) 1000) a = .next b ∧
      b.result = .decision .stack true ∧ cycleState.params.cmdStack = [0x35] ∧
      exec (.sesExchange [0x35] []) b = .next d ∧ d.lastErr = 0x00 :=
  ⟨rfl, rfl, _, _, _, rfl, by decide +kernel, by decide +kernel, rfl, by decide +kernel, rfl, rfl, by decide +kernel⟩

/-- Outside Polling; the stop flag is set; the poll is not answered; an idle device gets no command. -/
theorem wit_CycleIsPollDecideCommand_ends :
    (base .cctalk).sesState ≠ .polling ∧ { polling .cctalk [] with stopPoll := true }.stopPoll = true ∧
    (∃ a, exec (.sesExchange [0xFE] []) (polling .cctalk [[]]) = .next a ∧ a.lastErr = 0x06) ∧
    ∃ a, exec (.sesExchange [0xFE] []) (polling .cctalk [okReply]) = .next a ∧ a.lastErr = 0x00 ∧
      a.result = .reply (.cct 0x02 0x00 []) ∧
      ∃ b, exec (.escPoll (interpret (paramsOf .cctalk) (.cct 0x02 0x00 [])) 1000) a = .next b ∧
        b.result = .decision .none false :=
  ⟨by decide, rfl, then_exists (by decide +kernel), _, rfl, by decide +kernel, by decide +kernel, _, rfl, by decide +kernel⟩

/-- The stack command is not answered. -/
theorem wit_CycleIsPollDecideCommand_commandFails :
    ∃ a b d, exec (.sesExchange [0xFE] []) (polling .cctalk [billReply, []]) = .next a ∧ a.lastErr = 0x00 ∧
      a.result = .reply (.cct 0x02 0x00 [0x32]) ∧
      exec (.escPoll (interpret (paramsOf .cctalk) (.cct 0x02 0x00 [0x32])) 1000) a = .next b ∧
      b.result = .decision .stack true ∧ exec (.sesExchange [0x35] []) b = .next d ∧ d.lastErr = 0x06 :=
  ⟨_, _, _, rfl, by decide +kernel, by decide +kernel, rfl, by decide +kernel, rfl, by decide +kernel⟩

theorem wit_CycleStacksBill :
    let s := cycleState
    let ack2 := if s.params.proto = .ebds then !s.ebdAck else s.ebdAck
    s.sesState = .polling ∧ s.portOpen = true ∧ s.stopPoll = false ∧ s.serialRx = [] ∧
    s.writeScript = true :: true :: [] ∧ s.readScript = billReply :: okReply :: [] ∧
    billReply ≠ [] ∧ billReply.length ≤ s.params.rxCap ∧ okReply ≠ [] ∧ okReply.length ≤ s.params.rxCap ∧
    encodeExchange s.params s.ebdAck s.params.cmdPoll [] = some pollFrame ∧
    encodeExchange s.params ack2 s.params.cmdStack [] = some [0x02, 0x00, 0x01, 0x35, 0xC8] ∧
    (decodeReply s.ebdAck billReply s).2 = .ok (.cct 0x02 0x00 [0x32]) ∧
    nakBusy s.params (.cct 0x02 0x00 [0x32]) = false ∧
    (decodeReply ack2 okReply s).2 = .ok (.cct 0x02 0x00 []) ∧ nakBusy s.params (.cct 0x02 0x00 []) = false ∧
    interpret s.params (.cct 0x02 0x00 [0x32]) = .escrow 50 ∧ escrowArm s 50 1000 = .accept := by decide +kernel

/-! ### ESC -/

theorem wit_EscrowDecision : (polling .cctalk []).sesState = .polling := rfl

theorem wit_StackedCreditsOnce : (polling .cctalk []).sesState = .polling := rfl

theorem wit_OtherPollStates :
    (polling .cctalk []).sesState = .polling ∧ (∀ d, PollState.returned ≠ .escrow d) ∧
      ∀ d, PollState.returned ≠ .stacked d := ⟨rfl, nofun, nofun⟩

/-- A sum at the maximum, and a bill that is not stacked. -/
theorem wit_SumStaysWithinMaximum :
    let s := { polling .cctalk [] with rejectAboveMax := true, maxSum := 100, accSum := 100 }
    (∀ m rej, Instr.escPoll (.escrow 1) 0 ≠ .escCfg m rej) ∧ MoneySafe s ∧
      ∃ t, exec (.escPoll (.escrow 1) 0) s = .next t ∧ t.accSum = 100 :=
  ⟨nofun, by decide +kernel, then_exists (by decide +kernel)⟩

theorem wit_PollsAccountForMoney : (polling .cctalk []).sesState = .polling ∧ EscCleared (polling .cctalk []) := by
  decide +kernel

/-! ### The whole machine -/

theorem wit_StepKeepsInvariant :
    let s := (polling .cctalk [okReply]).withRequest [0x34, 0x01, 0x00, 0xFE, 0x00, 0x00]
    Inv s ∧ ∃ t, step s = .next t ∧ t.result = .reply (.cct 0x02 0x00 []) :=
  ⟨{ inv_polling .cctalk [okReply] with }, then_exists (by decide +kernel)⟩

theorem wit_NoFaultUnderInvariant : Inv (polling .cctalk [okReply]) := inv_polling _ _

theorem wit_StatusesOfEachOperation :
    isWire .sesProbe = false ∧ 4 ≤ (paramsOf .cctalk).txCap ∧
    ∃ t, exec .sesProbe (polling .cctalk []) = .next t ∧ t.lastErr = 0x0A :=
  ⟨rfl, by decide +kernel, then_exists (by decide +kernel)⟩

/-- A poll command that fits no frame. -/
theorem wit_StatusesOfEachOperation_misfit :
    let s := { polling .cctalk [] with params := { paramsOf .cctalk with cmdPoll := [] } }
    s.sesState = .polling ∧ s.stopPoll = false ∧ s.portOpen = true ∧
    encodeExchange s.params s.ebdAck s.params.cmdPoll [] = none := by decide +kernel

theorem wit_SilentOutsidePolling :
    (base .cctalk).sesState = .closed ∧ (base .cctalk).sesState ≠ .polling ∧ (base .cctalk).portOpen = false ∧
    ∃ t, exec (.sesExchange [0xFE] []) (base .cctalk) = .next t ∧ t.lastErr = 0x0A :=
  ⟨rfl, by decide, rfl, then_exists (by decide +kernel)⟩

theorem wit_EventsAppendAndParametersStay :
    (∃ t, exec (.escPoll .idling 0) (polling .cctalk []) = .next t ∧ t.evq = [.statusChanged 0 0]) ∧
    Instr.escPoll .idling 0 ≠ .sysReset ∧ ∃ t, step (base .cctalk) = .next t ∧ t.params = paramsOf .cctalk :=
  ⟨then_exists (by decide +kernel), by decide, then_exists (by decide +kernel)⟩

end Sys2Proof.Machine.Tests
end

section
/-! The op-select byte of a request: a code outside the list of 30_encoding.md R110 stops the decoder at that byte, so the
step ends in `refuse` before any operation runs (30_encoding.md R120). -/

namespace Sys2Proof

namespace Decode

/-- The op-select codes that select an operation (30_encoding.md R110). -/
def opSelectCodes : List Nat :=
  [0x00, 0x10, 0x11, 0x12, 0x14, 0x15, 0x16, 0x18, 0x19, 0x1A, 0x20, 0x22, 0x23, 0x24, 0x25, 0x26, 0x27,
    0x28, 0x29, 0x2A, 0x30, 0x31, 0x32, 0x33, 0x34, 0x35, 0x36, 0x40, 0x41, 0x42, 0x50, 0x51, 0x52]

/-- Every arm of `operands` but the last stands at a listed code. -/
theorem operands_of_not_mem {op : Byte} (r : Bytes) (hop : op.toNat ∉ opSelectCodes) :
    operands op r = .error (.undefinedOp op) := by
  unfold operands
  split
  case h_34 => rfl
  all_goals
    next hcode => exact absurd (hcode ▸ by decide) hop

theorem request_cons_of_not_mem {op : Byte} (r : Bytes) (hop : op.toNat ∉ opSelectCodes) :
    request (op :: r) = .error (.undefinedOp op) :=
  operands_of_not_mem r hop

end Decode

namespace Machine

theorem fetch_request {s : State} {bs : Bytes} {rest : List Input} (h : s.pending = .request bs :: rest) :
    fetch s = fetchRequest bs { s with pending := rest } := by
  simp only [fetch, h]

theorem fetchRequest_undefinedOp {bs : Bytes} {op : Byte} (s : State)
    (h : Decode.request bs = .error (.undefinedOp op)) : fetchRequest bs s = .settled s.refuse := by
  simp only [fetchRequest, h]

theorem step_of_fetch_settled {s t : State} (h : fetch s = .settled t) : step s = .next t := by
  simp only [step, h]

/-- Settles O3: the decoder stops at the op-select byte, and the step is `refuse` of the state without the request. -/
theorem undefinedOpSelectIsIllegal : Obligations.UndefinedOpSelectIsIllegal := by
  intro s op operands rest hpending hop
  have hdecode : Decode.request (op :: operands) = .error (.undefinedOp op) :=
    Decode.request_cons_of_not_mem operands hop
  have hfetch : fetch s = .settled { s with pending := rest }.refuse :=
    (fetch_request hpending).trans (fetchRequest_undefinedOp _ hdecode)
  exact ⟨.none, step_of_fetch_settled hfetch⟩

end Machine

end Sys2Proof
end

section
/-! The CHK unit (40_checksum.md): what the nine operations do, the streamed form of the three check functions, and the
residue of the CRC over a sequence and its trailer. -/

namespace Sys2Proof.Machine

/-! ### The check functions as arithmetic -/

theorem negate8_eq_ofNat (a : Byte) : negate8 a = BitVec.ofNat 8 ((256 - a.toNat) % 256) := by
  apply BitVec.eq_of_toNat_eq
  simp [negate8]

theorem sum8Step_eq_ofNat (a b : Byte) : sum8Step a b = BitVec.ofNat 8 ((a.toNat + b.toNat) % 256) := by
  apply BitVec.eq_of_toNat_eq
  simp [sum8Step]

theorem toNat_sum_bytes (bs : Bytes) : bs.sum.toNat = byteSum bs % 256 := by
  induction bs with
  | nil => rfl
  | cons b bs ih => simp [ih, byteSum]

theorem byteSum_mod_eq_zero_iff (bs : Bytes) : byteSum bs % 256 = 0 ↔ bs.sum = 0 := by
  rw [← toNat_sum_bytes, BitVec.toNat_eq]
  rfl

theorem sum8_eq_ofNat (bs : Bytes) : sum8 bs = BitVec.ofNat 8 ((256 - byteSum bs % 256) % 256) := by
  rw [sum8_eq, ← toNat_sum_bytes]
  exact negate8_eq_ofNat bs.sum

/-- The check byte is the only one that completes a sequence to sum 0 (40_checksum.md R132). -/
theorem sum8_eq_iff (bs : Bytes) (c : Byte) : sum8 bs = c ↔ byteSum (bs ++ [c]) % 256 = 0 := by
  rw [byteSum_mod_eq_zero_iff, sum8_eq]
  simp [neg_eq_iff_add_eq_zero]

/-- The eight shifts in the form of 40_checksum.md R141, a loop whose counter is not read. -/
theorem crcShifts_eq_foldl (n : Nat) (c : Half) :
    crcShifts n c = (List.range n).foldl (fun c _ => crcShift c) c := by
  induction n generalizing c with
  | zero => rfl
  | succ n ih => simp [crcShifts, ih, List.range_succ_eq_map, List.foldl_map]

/-! ### The residue of the CRC (40_checksum.md R145) -/

theorem crcShift_zero : crcShift 0 = 0 := by decide

theorem crcShifts_zero (n : Nat) : crcShifts n 0 = 0 := by
  induction n with
  | zero => rfl
  | succ n ih => rw [crcShifts, crcShift_zero, ih]

/-- A shift of a register whose low bit is clear feeds nothing back. -/
theorem crcShift_shiftLeft (x : Byte) {n : Nat} (h : n < 8) :
    crcShift (x.setWidth 16 <<< (n + 1)) = x.setWidth 16 <<< n := by
  have hlow : (x.setWidth 16 <<< (n + 1)).getLsbD 0 = false := by simp
  simp only [crcShift, hlow, Bool.false_eq_true, if_false]
  apply BitVec.eq_of_getLsbD_eq
  intro i hi
  by_cases htop : i + 1 < 16
  · simp [show 1 + i < 16 by omega, show 1 + i - (n + 1) = i - n by omega, hi, show 1 + i < n + 1 ↔ i < n by omega]
  · have hx : x.getLsbD (i - n) = false := BitVec.getLsbD_of_ge x _ (by omega)
    simp [show ¬ 1 + i < 16 by omega, hx]

theorem crcShifts_shiftLeft (x : Byte) {n : Nat} (h : n ≤ 8) :
    crcShifts n (x.setWidth 16 <<< n) = x.setWidth 16 := by
  induction n with
  | zero => simp [crcShifts]
  | succ n ih => rw [crcShifts, crcShift_shiftLeft x h, ih (by omega)]

theorem crc16Step_eq_zero_iff (c : Half) (b : Byte) : crc16Step c b = 0 ↔ c = b.setWidth 16 := by
  constructor
  · intro h
    have hx : c ^^^ b.setWidth 16 = 0 := crcShifts_injective 8 (h.trans (crcShifts_zero 8).symm)
    exact BitVec.xor_eq_zero_iff.1 hx
  · rintro rfl
    rw [crc16Step, BitVec.xor_self]
    exact crcShifts_zero 8

theorem ofLoHi_eq_xor (lo hi : Byte) : ofLoHi lo hi = lo.setWidth 16 ^^^ (hi.setWidth 16 <<< 8) := by
  apply BitVec.eq_of_getLsbD_eq
  intro i h
  by_cases h8 : i < 8
  · simp [ofLoHi, h8]
  · simp [ofLoHi, h8, BitVec.getLsbD_of_ge lo i (by omega)]

/-- One byte takes the register to a byte value exactly when that value stood in its high half under the byte. -/
theorem crc16Step_eq_setWidth_iff (c : Half) (lo hi : Byte) :
    crc16Step c lo = hi.setWidth 16 ↔ c = ofLoHi lo hi := by
  have hback : crcShifts 8 (hi.setWidth 16 <<< 8) = hi.setWidth 16 := crcShifts_shiftLeft hi le_rfl
  rw [ofLoHi_eq_xor]
  constructor
  · intro h
    have hx : c ^^^ lo.setWidth 16 = hi.setWidth 16 <<< 8 := crcShifts_injective 8 (h.trans hback.symm)
    rw [← hx, BitVec.xor_comm c, ← BitVec.xor_assoc, BitVec.xor_self, BitVec.zero_xor]
  · rintro rfl
    rw [crc16Step, BitVec.xor_comm, ← BitVec.xor_assoc, BitVec.xor_self, BitVec.zero_xor, hback]

theorem crc16_trailer_eq_zero_iff (bs : Bytes) (lo hi : Byte) :
    crc16 0 0 (bs ++ [lo, hi]) = 0 ↔ crc16 0 0 bs = ofLoHi lo hi := by
  have happend : crc16 0 0 (bs ++ [lo, hi]) = crc16Step (crc16Step (crc16 0 0 bs) lo) hi := by
    simp [crc16]
  rw [happend, crc16Step_eq_zero_iff, crc16Step_eq_setWidth_iff]

/-! ### INIT, UPD of each byte, FIN -/

theorem runInstrs_append {is : List Instr} (js : List Instr) {s t : State} (h : runInstrs is s = .next t) :
    runInstrs (is ++ js) s = runInstrs js t := by
  induction is generalizing s with
  | nil => cases h; rfl
  | cons i is ih =>
    cases hi : exec i s with
    | next u =>
      simp only [runInstrs, hi] at h
      simpa only [List.cons_append, runInstrs, hi] using ih h
    | fault f => simp [runInstrs, hi] at h
    | refused r => simp [runInstrs, hi] at h

section
variable {α : Type} {reg : State → α} {upd : Byte → Instr} {f : α → Byte → α}

/-- Where UPD of a byte is one step of a fold on what a generator holds, UPD of every byte is the fold. -/
theorem runInstrs_map_upd (hupd : ∀ b s, ∃ t, exec (upd b) s = .next t ∧ reg t = f (reg s) b) (bs : Bytes) (s : State) :
    ∃ t, runInstrs (bs.map upd) s = .next t ∧ reg t = bs.foldl f (reg s) := by
  induction bs generalizing s with
  | nil => exact ⟨s, rfl, rfl⟩
  | cons b bs ih =>
    obtain ⟨u, hu, hreg⟩ := hupd b s
    obtain ⟨t, ht, hfold⟩ := ih u
    refine ⟨t, ?_, by rw [hfold, hreg, List.foldl_cons]⟩
    simpa only [List.map_cons, runInstrs, hu] using ht

theorem runInstrs_streamed {init fin : Instr} {out : α → Result} {a : α} {s : State}
    (hinit : ∃ t, exec init s = .next t ∧ reg t = a)
    (hupd : ∀ b s, ∃ t, exec (upd b) s = .next t ∧ reg t = f (reg s) b)
    (hfin : ∀ s, ∃ t, exec fin s = .next t ∧ t.result = out (reg s)) (bs : Bytes) :
    ∃ t, runInstrs (init :: bs.map upd ++ [fin]) s = .next t ∧ t.result = out (bs.foldl f a) := by
  obtain ⟨u, hu, rfl⟩ := hinit
  obtain ⟨v, hv, hfold⟩ := runInstrs_map_upd hupd bs u
  obtain ⟨t, ht, hresult⟩ := hfin v
  refine ⟨t, ?_, by rw [hresult, hfold]⟩
  simp only [List.cons_append, runInstrs, hu, runInstrs_append _ hv, ht]

end

theorem runInstrs_chkS8 (s : State) (bs : Bytes) :
    ∃ t, runInstrs (.chkS8Init :: bs.map .chkS8Upd ++ [.chkS8Fin]) s = .next t ∧ t.result = .byte (sum8 bs) :=
  runInstrs_streamed (init := .chkS8Init) (upd := .chkS8Upd) (fin := .chkS8Fin) (reg := State.acc8) (f := sum8Step)
    (out := fun a => .byte (negate8 a)) (a := 0)
    ⟨_, rfl, rfl⟩ (fun _ _ => ⟨_, rfl, rfl⟩) (fun _ => ⟨_, rfl, rfl⟩) bs

/-- FIN reads the final XOR beside the register, so the fold carries both. -/
theorem runInstrs_chkC16 (s : State) (bs : Bytes) :
    ∃ t, runInstrs (.chkC16Init :: bs.map .chkC16Upd ++ [.chkC16Fin]) s = .next t ∧
      t.result = .half (crc16 s.params.crcInit s.params.crcXorOut bs) := by
  have hfold : bs.foldl (fun a b => (crc16Step a.1 b, a.2)) (s.params.crcInit, s.params.crcXorOut) =
      (bs.foldl crc16Step s.params.crcInit, s.params.crcXorOut) :=
    List.foldl_hom (·, s.params.crcXorOut) fun _ _ => rfl
  have hrun := runInstrs_streamed (init := .chkC16Init) (upd := .chkC16Upd) (fin := .chkC16Fin) (s := s)
    (reg := fun s => (s.crc, s.params.crcXorOut)) (f := fun a b => (crc16Step a.1 b, a.2))
    (out := fun a => .half (a.1 ^^^ a.2)) (a := (s.params.crcInit, s.params.crcXorOut))
    ⟨_, rfl, rfl⟩ (fun _ _ => ⟨_, rfl, rfl⟩) (fun _ => ⟨_, rfl, rfl⟩) bs
  rwa [hfold] at hrun

theorem runInstrs_chkX8 (s : State) (bs : Bytes) :
    ∃ t, runInstrs (.chkX8Init :: bs.map .chkX8Upd ++ [.chkX8Fin]) s = .next t ∧ t.result = .byte (xor8 bs) :=
  runInstrs_streamed (init := .chkX8Init) (upd := .chkX8Upd) (fin := .chkX8Fin) (reg := State.accx) (f := xor8Step)
    (out := .byte) (a := 0)
    ⟨_, rfl, rfl⟩ (fun _ _ => ⟨_, rfl, rfl⟩) (fun _ => ⟨_, rfl, rfl⟩) bs

/-- Settles O11: each operation is its arm of `exec`, with the arithmetic of R135, R136 and R141 written out. -/
theorem checksumOperations : Obligations.ChecksumOperations := by
  intro s b
  refine ⟨⟨_, rfl⟩, ⟨.none, ?s8Upd⟩, ?s8Fin, ⟨_, rfl⟩, ⟨.none, ?c16Upd⟩, rfl, ⟨_, rfl⟩, ⟨_, rfl⟩, rfl⟩
  case s8Upd =>
    rw [← sum8Step_eq_ofNat]
    rfl
  case s8Fin =>
    rw [← negate8_eq_ofNat]
    rfl
  case c16Upd =>
    have hstep := crcShifts_eq_foldl 8 (s.crc ^^^ b.setWidth 16)
    unfold crcShift crcPoly at hstep
    rw [← hstep]
    rfl

/-- Settles O12: the three generators are streamed folds, and the sum form of R133 is arithmetic modulo 256. -/
theorem streamedChecksums : Obligations.StreamedChecksums :=
  ⟨fun s bs => ⟨runInstrs_chkS8 s bs, runInstrs_chkC16 s bs, runInstrs_chkX8 s bs⟩, sum8_eq_ofNat, sum8_eq_iff⟩

/-- Settles O13: the last two bytes take the register to 0 exactly from the value whose bytes they are. -/
theorem crcResidueIsZero : Obligations.CrcResidueIsZero :=
  ⟨fun bs => (crc16_trailer_eq_zero_iff bs _ _).2 (ofLoHi_split (crc16 0 0 bs)).symm, crc16_trailer_eq_zero_iff⟩

/-- Settles O14: each check function is injective in any one byte of its sequence. -/
theorem checksumsSeeOneChangedByte : Obligations.ChecksumsSeeOneChangedByte := by
  intro xs ys b c hbc
  exact ⟨fun h => hbc (sum8_cons_append xs ys b c h), fun h => hbc (xor8_cons_append xs ys b c h),
    fun init xorOut h => hbc (crc16_cons_append init xorOut xs ys b c h)⟩

end Sys2Proof.Machine
end

section
/-! The registers of the three generators are written by the CHK operations and SYS.RESET alone: every other operation
computes its check values in temporaries (40_checksum.md R153). -/

namespace Sys2Proof.Machine

/-- The registers of the CHK unit (10_state.md R22 to R24). -/
def State.checkRegisters (s : State) : Byte × Half × Byte := (s.acc8, s.crc, s.accx)

theorem checkRegisters_eq_iff {s t : State} :
    t.checkRegisters = s.checkRegisters ↔ t.acc8 = s.acc8 ∧ t.crc = s.crc ∧ t.accx = s.accx := by
  simp [State.checkRegisters]

/-- An outcome that, where it is a next state, leaves the CHK unit as it was. -/
def KeepsCheckRegisters (s : State) (o : Host.Outcome State Fault Refusal) : Prop :=
  ∀ t, o = .next t → t.checkRegisters = s.checkRegisters

@[simp] theorem keepsCheckRegisters_next {s t : State} :
    KeepsCheckRegisters s (.next t) ↔ t.checkRegisters = s.checkRegisters := by
  simp [KeepsCheckRegisters]

theorem keepsCheckRegisters_withRx {s : State} {k : Bytes → State}
    (h : ∀ rx, (k rx).checkRegisters = s.checkRegisters) : KeepsCheckRegisters s (withRx s k) := by
  intro t ht
  obtain ⟨rx, -, rfl⟩ := withRx_next.1 ht
  exact h rx

/-! ### The shared operations -/

theorem checkRegisters_encodeTo (s : State) (frame : Option Bytes) :
    (encodeTo s frame).checkRegisters = s.checkRegisters := by
  cases frame <;> rfl

theorem checkRegisters_decodeTo (s : State) (d : Except DecErr Result) :
    (decodeTo s d).checkRegisters = s.checkRegisters := by
  cases d <;> rfl

theorem checkRegisters_deliver (s : State) (bs : Bytes) : (s.deliver bs).checkRegisters = s.checkRegisters := by
  simp [checkRegisters_eq_iff]

theorem checkRegisters_of_openPort {s t : State} {ok : Bool} (h : s.openPort = (ok, t)) :
    t.checkRegisters = s.checkRegisters := by
  rw [openPort_eq] at h
  obtain ⟨-, rfl⟩ := Prod.mk.inj h
  rfl

theorem checkRegisters_poll (st : PollState) (now : Word) (s : State) :
    (poll st now s).1.checkRegisters = s.checkRegisters := by
  have hkept := pollKept_poll s st now
  exact checkRegisters_eq_iff.2 ⟨hkept.acc8, hkept.crc, hkept.accx⟩

theorem checkRegisters_of_exchange {cmd payload : Bytes} {s t : State} {e : ExchEnd}
    (h : exchange cmd payload s = (t, e)) : t.checkRegisters = s.checkRegisters := by
  have hkept := exchange_kept cmd payload s
  rw [h] at hkept
  exact checkRegisters_eq_iff.2 ⟨hkept.acc8, hkept.crc, hkept.accx⟩

/-! ### The probe and the cycle, as chains of exchanges -/

theorem checkRegisters_followups (pairs : List (Bytes × Bytes)) (replies : List ExchEnd) (s : State) :
    (followups pairs replies s).1.checkRegisters = s.checkRegisters := by
  induction pairs generalizing replies s with
  | nil => rfl
  | cons pair rest ih =>
    unfold followups
    split
    next hx => exact (checkRegisters_of_exchange hx :)
    next hx => exact (ih _ _).trans (checkRegisters_of_exchange hx :)

theorem checkRegisters_probeIdentified (ident : Reply) (s : State) :
    (probeIdentified ident s).checkRegisters = s.checkRegisters := by
  have hkept := checkRegisters_followups s.params.probeFollowups [] { s with sesState := .identified, devAvail := true }
  unfold probeIdentified
  split <;> next hx =>
    rw [hx] at hkept
    exact hkept

theorem checkRegisters_probeOpened (s : State) : (probeOpened s).checkRegisters = s.checkRegisters := by
  unfold probeOpened
  split
  next hx => exact (checkRegisters_of_exchange hx :)
  next hx => exact (checkRegisters_of_exchange hx :)
  next hx =>
    split
    · exact (checkRegisters_probeIdentified _ _).trans (checkRegisters_of_exchange hx :)
    · exact (checkRegisters_of_exchange hx :)

theorem checkRegisters_cycleFailed (s : State) (e : ExchErr) (repoll : Bool) :
    (s.cycleFailed e repoll).checkRegisters = s.checkRegisters := by
  cases e <;> rfl

theorem checkRegisters_cycleCommand (cmd : EscCmd) (s : State) :
    (cycleCommand cmd s).checkRegisters = s.checkRegisters := by
  unfold cycleCommand
  split
  · rfl
  · split
    next hx => exact (checkRegisters_cycleFailed _ _ _).trans (checkRegisters_of_exchange hx :)
    next hx => exact (checkRegisters_of_exchange hx :)

theorem checkRegisters_cyclePoll (now : Word) (s : State) : (cyclePoll now s).checkRegisters = s.checkRegisters := by
  unfold cyclePoll
  split
  next hx => exact (checkRegisters_cycleFailed _ _ _).trans (checkRegisters_of_exchange hx :)
  next r hx =>
    calc
      _ = (poll _ now _).1.checkRegisters := checkRegisters_cycleCommand _ _
      _ = _ := checkRegisters_poll _ _ _
      _ = s.checkRegisters := (checkRegisters_of_exchange hx :)

/-! ### The operations with several ends -/

theorem keepsCheckRegisters_frmLoad (bytes : Bytes) (s : State) : KeepsCheckRegisters s (execFrmLoad bytes s) := by
  rw [execFrmLoad, keepsCheckRegisters_next]
  split <;> rfl

theorem keepsCheckRegisters_frmCcnDec (expectAddr : Byte) (s : State) :
    KeepsCheckRegisters s (execFrmCcnDec expectAddr s) := by
  refine keepsCheckRegisters_withRx fun rx => ?_
  dsimp only
  split <;> rfl

theorem keepsCheckRegisters_atdUssd (s : State) : KeepsCheckRegisters s (execAtdUssd s) := by
  refine keepsCheckRegisters_withRx fun rx => ?_
  split <;> rfl

theorem keepsCheckRegisters_sesProbe (s : State) : KeepsCheckRegisters s (execSesProbe s) := by
  rw [execSesProbe, keepsCheckRegisters_next]
  split
  · rfl
  · split
    next hx => exact (checkRegisters_of_openPort hx :)
    next hx => exact (checkRegisters_probeOpened _).trans (checkRegisters_of_openPort hx :)

theorem keepsCheckRegisters_sesStart (s : State) : KeepsCheckRegisters s (execSesStart s) := by
  rw [execSesStart, keepsCheckRegisters_next]
  split
  · rfl
  · split <;> next hx => exact (checkRegisters_of_openPort hx :)

theorem keepsCheckRegisters_sesStop (s : State) : KeepsCheckRegisters s (execSesStop s) := by
  rw [execSesStop, keepsCheckRegisters_next]
  split <;> rfl

theorem keepsCheckRegisters_sesClose (s : State) : KeepsCheckRegisters s (execSesClose s) := by
  rw [execSesClose, keepsCheckRegisters_next]
  split <;> rfl

theorem keepsCheckRegisters_sesExchange (cmd payload : Bytes) (s : State) :
    KeepsCheckRegisters s (execSesExchange cmd payload s) := by
  rw [execSesExchange, keepsCheckRegisters_next]
  split <;> next hx => exact (checkRegisters_of_exchange hx :)

theorem keepsCheckRegisters_sesCycle (now : Word) (s : State) : KeepsCheckRegisters s (execSesCycle now s) := by
  rw [execSesCycle, keepsCheckRegisters_next]
  split
  · rfl
  · split
    · rfl
    · exact checkRegisters_cyclePoll now s

theorem keepsCheckRegisters_escPoll (st : PollState) (now : Word) (s : State) :
    KeepsCheckRegisters s (execEscPoll st now s) := by
  rw [execEscPoll, keepsCheckRegisters_next]
  split
  · rfl
  · exact checkRegisters_poll st now s

/-! ### Every instruction -/

/-- The operations that write a register of the CHK unit; the FIN operations only read theirs (40_checksum.md R136,
R144, R150). -/
def writesCheckRegister : Instr → Bool
  | .sysReset | .chkS8Init | .chkS8Upd _ | .chkC16Init | .chkC16Upd _ | .chkX8Init | .chkX8Upd _ => true
  | _ => false

theorem exec_keepsCheckRegisters (i : Instr) (s : State) (h : writesCheckRegister i = false) :
    KeepsCheckRegisters s (exec i s) := by
  cases i with
  | sysReset | chkS8Init | chkS8Upd | chkC16Init | chkC16Upd | chkX8Init | chkX8Upd => cases h
  | chkS8Fin | chkC16Fin | chkX8Fin | sesStopreq | escCfg | escDberr => exact keepsCheckRegisters_next.2 rfl
  | frmCctEnc | frmCcnEnc | frmEbdEnc | frmWdgEnc | atdEnc =>
    exact keepsCheckRegisters_next.2 (checkRegisters_encodeTo _ _)
  | frmCctDec | frmEbdDec | frmWdgDec | frmWdgChk | atdDec =>
    exact keepsCheckRegisters_withRx fun _ => checkRegisters_decodeTo _ _
  | wireCctalk | wireCcnet | wireEbds | wireWatchdog | wireAt =>
    exact keepsCheckRegisters_next.2 (checkRegisters_deliver _ _)
  | frmLoad bytes => exact keepsCheckRegisters_frmLoad bytes s
  | frmCcnDec expectAddr => exact keepsCheckRegisters_frmCcnDec expectAddr s
  | atdUssd => exact keepsCheckRegisters_atdUssd s
  | sesProbe => exact keepsCheckRegisters_sesProbe s
  | sesStart => exact keepsCheckRegisters_sesStart s
  | sesStop => exact keepsCheckRegisters_sesStop s
  | sesClose => exact keepsCheckRegisters_sesClose s
  | sesExchange cmd payload => exact keepsCheckRegisters_sesExchange cmd payload s
  | sesCycle now => exact keepsCheckRegisters_sesCycle now s
  | escPoll st now => exact keepsCheckRegisters_escPoll st now s

/-- Settles O15: of the operations that write a register of the CHK unit, each but SYS.RESET writes its own alone. -/
theorem checksumRegistersIndependent : Obligations.ChecksumRegistersIndependent := by
  intro i s t h hreset
  cases hw : writesCheckRegister i with
  | false =>
    obtain ⟨hacc8, hcrc, haccx⟩ := checkRegisters_eq_iff.1 (exec_keepsCheckRegisters i s hw t h)
    exact ⟨fun _ _ => hacc8, fun _ _ => hcrc, fun _ _ => haccx⟩
  | true =>
    cases i with
    | sysReset => exact absurd rfl hreset
    | chkS8Init =>
      cases h
      exact ⟨fun hinit => absurd rfl hinit, fun _ _ => rfl, fun _ _ => rfl⟩
    | chkS8Upd b =>
      cases h
      exact ⟨fun _ hupd => absurd rfl (hupd b), fun _ _ => rfl, fun _ _ => rfl⟩
    | chkC16Init =>
      cases h
      exact ⟨fun _ _ => rfl, fun hinit => absurd rfl hinit, fun _ _ => rfl⟩
    | chkC16Upd b =>
      cases h
      exact ⟨fun _ _ => rfl, fun _ hupd => absurd rfl (hupd b), fun _ _ => rfl⟩
    | chkX8Init =>
      cases h
      exact ⟨fun _ _ => rfl, fun _ _ => rfl, fun hinit => absurd rfl hinit⟩
    | chkX8Upd b =>
      cases h
      exact ⟨fun _ _ => rfl, fun _ _ => rfl, fun _ hupd => absurd rfl (hupd b)⟩
    | _ => cases hw

end Sys2Proof.Machine
end

section
/-! The FRM unit's load and its encode operations: each stores the frame of its family in TXBUF or reports SizeError with
nothing written, and an exchange sends that frame (41_framers.md R160, R162, R176, R190; 42_exchange_retry.md R230). -/

namespace Sys2Proof.Machine

/-! ### Encode operations -/

/-- The two ends of an encode operation, told apart by the bounds of its family: the frame stands in TXBUF and nothing else
but the status is written, or the status is SizeError and nothing else is written (60_exceptions.md R407). -/
theorem exec_encode {i : Instr} {s : State} {encoded : Option Bytes} {frame : Bytes} {n : Nat} {refused : Prop}
    [Decidable refused] (hexec : exec i s = .next (encodeTo s encoded))
    (hencode : encoded = if refused then none else some frame) (hlen : frame.length = n) :
    (¬ refused → ∃ t, exec i s = .next t ∧ t.txLen = n ∧ (∀ a, t.txbuf.read a = frame[a]?) ∧
      (∀ a, t.rxbuf.read a = s.rxbuf.read a) ∧
      t = { s with txbuf := t.txbuf, txLen := t.txLen, lastErr := 0x00, result := t.result }) ∧
    (refused → ∃ r, exec i s = .next { s with lastErr := 0x09, result := r }) := by
  rw [hexec, hencode]
  constructor
  · intro hfits
    rw [if_neg hfits]
    exact ⟨_, rfl, hlen, Memory.read_store frame, fun _ => rfl, rfl⟩
  · intro hrefused
    rw [if_pos hrefused]
    exact ⟨.none, rfl⟩

/-! ### The load -/

theorem exec_frmLoad {s : State} {bs : Bytes} (h : bs.length ≤ s.params.rxCap) :
    exec (.frmLoad bs) s = .next ((s.putRx bs).complete .ok .none) :=
  congrArg Host.Outcome.next (if_neg (Nat.not_lt.2 h))

theorem exec_frmLoad_long {s : State} {bs : Bytes} (h : s.params.rxCap < bs.length) :
    exec (.frmLoad bs) s = .next (s.complete .sizeError .none) :=
  congrArg Host.Outcome.next (if_pos h)

/-! ### The frames, written out -/

theorem cctFrame_eq (dest src cmd : Byte) (payload : Bytes) :
    cctFrame dest src cmd payload =
      [dest, BitVec.ofNat 8 payload.length, src, cmd] ++ payload ++
        [BitVec.ofNat 8 ((256 - byteSum ([dest, BitVec.ofNat 8 payload.length, src, cmd] ++ payload) % 256) % 256)] := by
  rw [cctFrame, sum8_eq_ofNat]

/-- Leaving POSTFIX out of the check is taking the check of what stands before it (30_encoding.md R100). -/
theorem ebdCheck_concat (p : Params) (bs : Bytes) (b : Byte) :
    ebdCheck p (bs ++ [b]) = if p.ebdCrcCoversPostfix then xor8 (bs ++ [b]) else xor8 bs := by
  rw [ebdCheck, List.dropLast_concat]

theorem ebdFrame_eq (p : Params) (ctl : Byte) (data : Bytes) :
    ebdFrame p ctl data =
      let body := [BitVec.ofNat 8 (data.length + 5), ctl] ++ data
      [0x02] ++ body ++ [0x03, if p.ebdCrcCoversPostfix then xor8 (body ++ [0x03]) else xor8 body] := by
  rw [ebdFrame, ebdCheck_concat, ebdPrefix, ebdPostfix]
  simp

theorem ebdEncode_eq (p : Params) (ack : Bool) (cmd : Byte) (payload : Bytes) :
    ebdEncode p ack cmd payload =
      if 250 < payload.length ∨ p.txCap < payload.length + 5 ∨ cmd &&& ackMask p ≠ 0 then none
      else some (ebdFrame p (ctlByte p cmd ack) payload) := by
  simp only [ebdEncode, gt_iff_lt, ← or_assoc]
  by_cases hlong : 250 < payload.length ∨ p.txCap < payload.length + 5
  · rw [if_pos hlong, if_pos (Or.inl hlong)]
  · simp only [hlong, false_or, if_false]

/-! ### What an exchange sends -/

section
variable {p : Params} {ack : Bool} {cmd : Byte} {payload : Bytes}

theorem encodeExchange_cctalk (h : p.proto = .cctalk) :
    encodeExchange p ack [cmd] payload = cctEncode p p.cctDevAddr p.cctHostAddr cmd payload := by
  simp only [encodeExchange, h]

theorem encodeExchange_ccnet (h : p.proto = .ccnet) :
    encodeExchange p ack [cmd] payload = ccnEncode p p.ccnAddr cmd payload := by
  simp only [encodeExchange, h]

theorem encodeExchange_ebds (h : p.proto = .ebds) :
    encodeExchange p ack [cmd] payload = ebdEncode p ack cmd payload := by
  simp only [encodeExchange, h]

theorem encodeExchange_wdg (h : p.proto = .wdg) :
    encodeExchange p ack [cmd] payload = if payload ≠ [] then none else wdgEncode p cmd := by
  simp only [encodeExchange, h]

end

/-! ### Load and encode, settled -/

/-- Settles O16: the buffer after a load is the store of its bytes, and a refused load is a status alone. -/
theorem frmLoadResult : Obligations.FrmLoadResult := by
  intro s bs
  constructor
  · intro hfit
    exact ⟨_, exec_frmLoad hfit, rfl, Memory.read_store bs, fun _ => rfl, rfl⟩
  · intro hlong
    exact ⟨.none, exec_frmLoad_long hlong⟩

/-- Settles O17: `cctEncode` is the bounds of R162 around the frame of R90. -/
theorem cctEncodeResult : Obligations.CctEncodeResult := by
  intro s dest src cmd payload f frame
  have hencode : cctEncode s.params dest src cmd payload =
      if 255 < payload.length ∨ s.params.txCap < payload.length + 5 then none else some frame := by
    rw [cctEncode, cctFrame_eq]
  have hlen : frame.length = payload.length + 5 := by simp [frame, f]
  obtain ⟨hstored, hrefused⟩ := exec_encode (i := .frmCctEnc dest src cmd payload) rfl hencode hlen
  refine ⟨fun hmax hcap => hstored (by omega), hrefused, ?_⟩
  rintro hproto rfl rfl
  rw [encodeExchange_cctalk hproto, hencode]

/-- Settles O18: `ccnEncode` is the bounds of R176 around the frame of R94. -/
theorem ccnEncodeResult : Obligations.CcnEncodeResult := by
  intro s addr cmd payload f c frame
  have hencode : ccnEncode s.params addr cmd payload =
      if 249 < payload.length ∨ s.params.txCap < payload.length + 6 then none else some frame := rfl
  have hlen : frame.length = payload.length + 6 := by simp [frame, f]
  obtain ⟨hstored, hrefused⟩ := exec_encode (i := .frmCcnEnc addr cmd payload) rfl hencode hlen
  refine ⟨fun hmax hcap => hstored (by omega), hrefused, ?_⟩
  rintro hproto rfl
  rw [encodeExchange_ccnet hproto, hencode]

/-- Settles O19: `ebdEncode` is the bounds of R190 and the test of the ACK bit around the frame of R97. -/
theorem ebdEncodeResult : Obligations.EbdEncodeResult := by
  intro s cmd payload ackMask body x frame
  have hencode : ebdEncode s.params s.ebdAck cmd payload =
      if 250 < payload.length ∨ s.params.txCap < payload.length + 5 ∨ cmd &&& ackMask ≠ 0 then none else some frame := by
    rw [ebdEncode_eq, ebdFrame_eq]
    rfl
  have hlen : frame.length = payload.length + 5 := by simp [frame, body]
  obtain ⟨hstored, hrefused⟩ := exec_encode (i := .frmEbdEnc cmd payload) rfl hencode hlen
  refine ⟨fun hmax hcap hbit => hstored ?_, hrefused, fun hproto => ?_⟩
  · simp only [hbit, ne_eq, not_true_eq_false, or_false]
    omega
  · rw [encodeExchange_ebds hproto, hencode]

end Sys2Proof.Machine
end

section
/-! The FRM unit's decode operations: each is its decoder on the valid bytes of RXBUF (41_framers.md R161), and an exchange
decodes by the same decoder (42_exchange_retry.md R230). With the encoders: what is encoded, loaded and decoded comes back
(R211). -/

namespace Sys2Proof.Machine

/-! ### Decode operations -/

section
variable {s : State} {rx : Bytes}

theorem exec_frmCctDec (h : s.rxBytes = some rx) (expect : Byte) :
    exec (.frmCctDec expect) s =
      .next (decodeTo s ((cctDecode expect rx).map fun (src, cmd, payload) => .reply (.cct src cmd payload))) :=
  withRx_some h

theorem exec_frmEbdDec (h : s.rxBytes = some rx) (expect : Bool) :
    exec (.frmEbdDec expect) s =
      .next (decodeTo { s with fExt := extFlag (ebdDecode s.params expect rx) }
        ((ebdDecode s.params expect rx).map fun (cmd, payload, _) => .reply (.ebd cmd payload))) :=
  withRx_some h

theorem exec_frmWdgDec (h : s.rxBytes = some rx) :
    exec .frmWdgDec s = .next (decodeTo s ((wdgDecode rx).map fun cmd => .wdgCommand cmd)) :=
  withRx_some h

theorem exec_frmWdgChk (h : s.rxBytes = some rx) :
    exec .frmWdgChk s = .next (decodeTo s (if wdgCheck rx then .ok .none else .error .address)) :=
  withRx_some h

/-- FRM.CCN.DEC by how the scan ended; a wrong address is raised with the candidate's offset (41_framers.md R178). -/
theorem exec_frmCcnDec (h : s.rxBytes = some rx) (expect : Byte) :
    exec (.frmCcnDec expect) s = .next
      (match ccnDecode s.params expect rx with
      | .frame cmd payload offset =>
        { s with fResync := decide (0 < offset), lastErr := 0x00, result := .reply (.ccn cmd payload offset) }
      | .wrongAddress offset => { s with fResync := false, lastErr := 0x03, result := .wrongAddress offset }
      | .failed e => { s with fResync := false, lastErr := (decErrStatus e).code, result := .none }) := by
  refine (withRx_some h).trans (congrArg Host.Outcome.next ?_)
  cases ccnDecode s.params expect rx <;> rfl

end

/-! ### The round trip (41_framers.md R211) -/

/-- A load that fits, then a decode operation: the decode operation is all that is left to say, of any state with these
parameters whose RXBUF holds the bytes. -/
theorem runInstrs_load_decode {dec : Instr} {t : State} {bs : Bytes} {good : State → Prop}
    (hfit : bs.length ≤ t.params.rxCap)
    (hdec : ∀ v : State, v.rxBytes = some bs → v.params = t.params → ∃ u, exec dec v = .next u ∧ good u) :
    ∃ u, runInstrs [.frmLoad bs, dec] t = .next u ∧ good u := by
  obtain ⟨u, hu, hgood⟩ := hdec ((t.putRx bs).complete .ok .none) (putRx_rxBytes t bs) rfl
  refine ⟨u, ?_, hgood⟩
  simp only [runInstrs, exec_frmLoad hfit, hu]

/-- An encode operation whose frame fits, and the load and decode of what it stored. -/
theorem encode_load_decode {enc dec : Instr} {s : State} {encoded : Option Bytes} {frame : Bytes} {good : State → Prop}
    (hexec : exec enc s = .next (encodeTo s encoded)) (hencode : encoded = some frame)
    (hfit : frame.length ≤ s.params.rxCap)
    (hdec : ∀ v : State, v.rxBytes = some frame → v.params = s.params → ∃ u, exec dec v = .next u ∧ good u) :
    ∃ t f u, exec enc s = .next t ∧ t.txBytes = some f ∧ runInstrs [.frmLoad f, dec] t = .next u ∧ good u := by
  subst hencode
  obtain ⟨u, hrun, hgood⟩ := runInstrs_load_decode (t := (s.putTx frame).complete .ok .none) hfit hdec
  exact ⟨_, frame, u, hexec, putTx_txBytes s frame, hrun, hgood⟩

/-- Settles O24: in each family the decoder gives the fields back from the frame of the encoder, and the load hands that
frame over unchanged. -/
theorem frameRoundTrips : Obligations.FrameRoundTrips := by
  refine ⟨?cctalk, ?ccnet, ?ebds, ?watchdog⟩
  case cctalk =>
    intro s dest src cmd payload hmax htx hrx
    have hencode : cctEncode s.params dest src cmd payload = some (cctFrame dest src cmd payload) := if_neg (by omega)
    refine encode_load_decode rfl hencode (by rwa [cctFrame_length]) fun v hv _ => ⟨_, exec_frmCctDec hv dest, ?_⟩
    rw [cctDecode_frame _ _ _ _ hmax]
    exact ⟨rfl, rfl⟩
  case ccnet =>
    intro s addr cmd payload hmax htx hrx
    have hencode : ccnEncode s.params addr cmd payload = some (ccnFrame s.params addr cmd payload) := if_neg (by omega)
    refine encode_load_decode rfl hencode (by rwa [ccnFrame_length]) fun v hv hp => ⟨_, exec_frmCcnDec hv addr, ?_⟩
    have hdecode : ccnDecode v.params addr (ccnFrame s.params addr cmd payload) = .frame cmd payload 0 := by
      simpa [hp] using ccnDecode_frame s.params addr cmd payload [] hmax
    rw [hdecode]
    exact ⟨rfl, rfl, rfl⟩
  case ebds =>
    intro s cmd payload hmax hbit htx hrx
    have hencode : ebdEncode s.params s.ebdAck cmd payload =
        some (ebdFrame s.params (ctlByte s.params cmd s.ebdAck) payload) := by
      rw [ebdEncode_eq, if_neg]
      rintro (hlong | hlong | hset)
      · omega
      · omega
      · exact hset hbit
    refine encode_load_decode rfl hencode (by rwa [ebdFrame_length]) fun v hv hp => ⟨_, exec_frmEbdDec hv s.ebdAck, ?_⟩
    rw [hp, ebdDecode_frame s.ebdAck hmax hbit]
    by_cases hmarker : payload.head? = some ebdMarker
    · rw [if_pos hmarker]
      exact ⟨rfl, fun hplain => absurd hmarker hplain, fun _ => ⟨rfl, rfl⟩⟩
    · rw [if_neg hmarker]
      exact ⟨rfl, fun _ => ⟨rfl, rfl⟩, fun hext => absurd hext hmarker⟩
  case watchdog =>
    intro s cmd htx hrx
    have hencode : wdgEncode s.params cmd = some (wdgFrame cmd) := if_neg (by omega)
    refine encode_load_decode rfl hencode hrx fun v hv _ => ⟨_, exec_frmWdgDec hv, ?_⟩
    rw [wdgDecode_frame]
    exact ⟨rfl, rfl⟩

end Sys2Proof.Machine
end

section
/-! The decoders of cctalk, EBDS and the watchdog read by position, as 41_framers.md R163, R192, R205 and R206 name the bytes
of RXBUF, and the decode step of an exchange. -/

namespace Sys2Proof.Machine

/-! ### Parts of a buffer, by position -/

theorem dropLast_drop_eq_slice (bs : Bytes) (k : Nat) : (bs.drop k).dropLast = slice bs k (bs.length - 1) := by
  rw [List.dropLast_eq_take, List.length_drop, slice, Nat.sub_right_comm]

theorem dropLast_slice {bs : Bytes} {start stop : Nat} (h : stop ≤ bs.length) :
    (slice bs start stop).dropLast = slice bs start (stop - 1) := by
  rw [slice, slice, List.dropLast_eq_take, List.take_take, List.length_take, List.length_drop]
  congr 1
  omega

theorem getLastD_drop {bs : Bytes} {k : Nat} (h : k < bs.length) (d : Byte) :
    (bs.drop k).getLastD d = bs.getD (bs.length - 1) d := by
  rw [List.getLastD_eq_getLast?, List.getLast?_drop, if_neg (by omega), List.getLast?_eq_getElem?,
    List.getD_eq_getElem?_getD]

theorem getLastD_slice {bs : Bytes} {start stop : Nat} (hstart : start < stop) (hstop : stop ≤ bs.length) (d : Byte) :
    (slice bs start stop).getLastD d = bs.getD (stop - 1) d := by
  have hlast : slice bs start stop = (bs.take stop).drop start := by rw [slice, List.drop_take]
  have hlen : (bs.take stop).length = stop := by rw [List.length_take, min_eq_left hstop]
  rw [hlast, getLastD_drop (by rwa [hlen]), hlen, List.getD_eq_getElem?_getD, List.getD_eq_getElem?_getD,
    List.getElem?_take_of_lt (by omega)]

theorem exists_eq_cons_of_five_le {bs : Bytes} (h : 5 ≤ bs.length) :
    ∃ a b c d e rest, bs = a :: b :: c :: d :: e :: rest := by
  match bs, h with
  | a :: b :: c :: d :: e :: rest, _ => exact ⟨a, b, c, d, e, rest, rfl⟩

/-! ### cctalk -/

theorem cctDecode_short {rx : Bytes} (expect : Byte) (h : rx.length < 5) : cctDecode expect rx = .error .length := by
  unfold cctDecode
  split
  · simp only [List.length_cons] at h
    omega
  · rfl

/-- FRM.CCT.DEC, its checks in order and its fields by position (41_framers.md R163, R164). -/
theorem cctDecode_eq (expect : Byte) (rx : Bytes) :
    cctDecode expect rx =
      if rx.length < 5 then .error .length
      else if rx.getD 0 0 ≠ expect then .error .address
      else if (rx.getD 1 0).toNat + 5 ≠ rx.length then .error .length
      else if sum8 (slice rx 0 (rx.length - 1)) ≠ rx.getD (rx.length - 1) 0 then .error .checksum
      else .ok (rx.getD 2 0, rx.getD 3 0, slice rx 4 (rx.length - 1)) := by
  by_cases hshort : rx.length < 5
  · rw [if_pos hshort, cctDecode_short expect hshort]
  · obtain ⟨dest, len, src, cmd, c, rest, rfl⟩ := exists_eq_cons_of_five_le (Nat.le_of_not_lt hshort)
    rw [if_neg hshort, ← getLastD_drop (k := 4) (by simp), ← dropLast_drop_eq_slice, ← dropLast_drop_eq_slice]
    rfl

/-! ### EBDS -/

theorem ebdParse_short {rx : Bytes} (p : Params) (h : rx.length < 5) : ebdParse p rx = .error .length := by
  unfold ebdParse
  split
  · simp only [List.length_cons] at h
    omega
  · rfl

/-- The bytes the EBDS check byte covers: from the length byte to POSTFIX, or to the byte before it (30_encoding.md
R100). -/
theorem ebdCheck_slice (p : Params) (rx : Bytes) :
    ebdCheck p (slice rx 1 (rx.length - 1)) =
      xor8 (slice rx 1 (if p.ebdCrcCoversPostfix then rx.length - 1 else rx.length - 2)) := by
  rw [ebdCheck, dropLast_slice (Nat.sub_le _ _)]
  split_ifs <;> rfl

/-- The checks (a) to (e) of FRM.EBD.DEC in order, the control byte and the data by position (41_framers.md R192). -/
theorem ebdParse_eq (p : Params) (rx : Bytes) :
    ebdParse p rx =
      if rx.length < 5 ∨ rx.getD 0 0 ≠ 0x02 ∨ (rx.getD 1 0).toNat ≠ rx.length ∨ rx.getD (rx.length - 2) 0 ≠ 0x03 then
        .error .length
      else if xor8 (slice rx 1 (if p.ebdCrcCoversPostfix then rx.length - 1 else rx.length - 2)) ≠
          rx.getD (rx.length - 1) 0 then .error .checksum
      else .ok (rx.getD 2 0, slice rx 3 (rx.length - 2)) := by
  by_cases hshort : rx.length < 5
  · rw [if_pos (Or.inl hshort), ebdParse_short p hshort]
  · have hpostfix : ((rx.drop 3).dropLast).getLastD 0 = rx.getD (rx.length - 2) 0 := by
      rw [dropLast_drop_eq_slice, getLastD_slice (by omega) (by omega)]
      rfl
    have hdata : ((rx.drop 3).dropLast).dropLast = slice rx 3 (rx.length - 2) := by
      rw [dropLast_drop_eq_slice, dropLast_slice (by omega)]
      rfl
    simp only [hshort, false_or, ite_or]
    rw [← ebdCheck_slice, ← hpostfix, ← hdata, ← dropLast_drop_eq_slice, ← getLastD_drop (k := 4) (by omega)]
    obtain ⟨pre, len, ctl, c, d, rest, rfl⟩ := exists_eq_cons_of_five_le (Nat.le_of_not_lt hshort)
    rfl

/-- FRM.EBD.DEC after the checks (a) to (e): the ACK bit, the command without it, the extended marker (41_framers.md R192,
R193, R196). -/
theorem ebdDecode_of_parse {p : Params} {rx data : Bytes} {ctl : Byte} (expect : Bool)
    (h : ebdParse p rx = .ok (ctl, data)) :
    ebdDecode p expect rx =
      if ackOf p ctl ≠ expect then .error .ackBit
      else if data.head? = some ebdMarker then .ok (ctl &&& ~~~ackMask p, data.tail, true)
      else .ok (ctl &&& ~~~ackMask p, data, false) := by
  simp only [ebdDecode, h]
  cases data with
  | nil => rfl
  | cons m payload => simp only [List.head?_cons, Option.some.injEq, List.tail_cons]

theorem ebdDecode_of_parse_error {p : Params} {rx : Bytes} {e : DecErr} (expect : Bool)
    (h : ebdParse p rx = .error e) : ebdDecode p expect rx = .error e := by
  simp only [ebdDecode, h]

/-- FRM.EBD.DEC, its checks (a) to (f) in order and its fields by position (41_framers.md R192, R193, R196). -/
theorem ebdDecode_eq (p : Params) (expect : Bool) (rx : Bytes) :
    ebdDecode p expect rx =
      if rx.length < 5 ∨ rx.getD 0 0 ≠ 0x02 ∨ (rx.getD 1 0).toNat ≠ rx.length ∨ rx.getD (rx.length - 2) 0 ≠ 0x03 then
        .error .length
      else if xor8 (slice rx 1 (if p.ebdCrcCoversPostfix then rx.length - 1 else rx.length - 2)) ≠
          rx.getD (rx.length - 1) 0 then .error .checksum
      else if decide (rx.getD 2 0 &&& 1#8 <<< p.ebdAckBit.val ≠ 0) ≠ expect then .error .ackBit
      else if (slice rx 3 (rx.length - 2)).head? = some 0x70 then
        .ok (rx.getD 2 0 &&& ~~~(1#8 <<< p.ebdAckBit.val), (slice rx 3 (rx.length - 2)).tail, true)
      else .ok (rx.getD 2 0 &&& ~~~(1#8 <<< p.ebdAckBit.val), slice rx 3 (rx.length - 2), false) := by
  have hparse := ebdParse_eq p rx
  generalize xor8 _ = check at hparse ⊢
  split at hparse
  next hframe =>
    rw [if_pos hframe]
    exact ebdDecode_of_parse_error expect hparse
  next hframe =>
    rw [if_neg hframe]
    split at hparse
    next hcheck =>
      rw [if_pos hcheck]
      exact ebdDecode_of_parse_error expect hparse
    next hcheck =>
      rw [if_neg hcheck]
      exact ebdDecode_of_parse expect hparse

/-! ### Watchdog -/

theorem wdgDecode_of_ne {rx : Bytes} (h : ∀ cmd, rx ≠ wdgFrame cmd) : wdgDecode rx = .error .length := by
  cases hdecode : wdgDecode rx with
  | ok cmd => exact absurd (wdgDecode_ok hdecode) (h cmd)
  | error e =>
    unfold wdgDecode at hdecode
    split at hdecode
    · split at hdecode <;> cases hdecode
      rfl
    · cases hdecode
      rfl

/-- FRM.WDG.CHK looks for the bytes 76 31 at every index (41_framers.md R206). -/
theorem wdgCheck_iff (rx : Bytes) : wdgCheck rx = true ↔ ∃ i : Nat, rx[i]? = some 0x76 ∧ rx[i + 1]? = some 0x31 := by
  induction rx with
  | nil => simp [wdgCheck]
  | cons a rest ih =>
    cases rest with
    | nil => simp [wdgCheck]
    | cons b rest =>
      rw [wdgCheck, decide_eq_true_iff, ih]
      constructor
      · rintro (⟨rfl, rfl⟩ | ⟨i, hi⟩)
        · exact ⟨0, rfl, rfl⟩
        · exact ⟨i + 1, hi⟩
      · rintro ⟨i, hi⟩
        cases i with
        | zero => exact Or.inl (by simpa using hi)
        | succ i => exact Or.inr ⟨i, hi⟩

/-! ### The decode step of an exchange -/

/-- The decode step of an exchange is the decode operation where both end from one verdict of one decoder
(42_exchange_retry.md R230, step 4). -/
theorem decodesAs_of_decodeTo {α : Type} {i : Instr} {ack : Bool} {rx : Bytes} {s u : State} {fields : α → Reply}
    {decoded : Except DecErr α} (hreply : decodeReply ack rx s = (u, decoded.map fields))
    (hexec : exec i s = .next (decodeTo u (decoded.map fun a => .reply (fields a))))
    (hflags : u = { s with fResync := u.fResync, fExt := u.fExt }) : DecodesAs i ack rx s := by
  unfold DecodesAs
  rw [hreply]
  cases decoded with
  | ok a =>
    refine ⟨_, hexec, hflags, fun r hr => ?_, nofun⟩
    cases hr
    exact ⟨rfl, rfl⟩
  | error e =>
    refine ⟨_, hexec, hflags, nofun, fun e' he => ?_⟩
    cases he
    rfl

theorem decodeReply_cctalk {s : State} (ack : Bool) (rx : Bytes) (h : s.params.proto = .cctalk) :
    decodeReply ack rx s =
      (s, (cctDecode s.params.cctHostAddr rx).map fun (src, cmd, payload) => .cct src cmd payload) := by
  simp only [decodeReply, h]

theorem decodeReply_ebds {s : State} (ack : Bool) (rx : Bytes) (h : s.params.proto = .ebds) :
    decodeReply ack rx s =
      ({ s with fExt := extFlag (ebdDecode s.params ack rx) },
        (ebdDecode s.params ack rx).map fun (cmd, payload, _) => .ebd cmd payload) := by
  simp only [decodeReply, h]

theorem decodeReply_wdg {s : State} (ack : Bool) (rx : Bytes) (h : s.params.proto = .wdg) :
    decodeReply ack rx s = (s, if wdgCheck rx then .ok .wdg else .error .address) := by
  simp only [decodeReply, h]

/-! ### Decode, settled -/

/-- Settles O21: the checks of `cctDecode`, read by position. -/
theorem cctDecodeChecks : Obligations.CctDecodeChecks := by
  intro s rx expect hrx
  constructor
  · rw [exec_frmCctDec hrx, cctDecode_eq]
    split_ifs <;> rfl
  · rintro hproto rfl
    exact decodesAs_of_decodeTo (decodeReply_cctalk s.ebdAck rx hproto) (exec_frmCctDec hrx _) rfl

/-- Settles O23: the checks of `ebdDecode`, read by position. -/
theorem ebdDecodeChecks : Obligations.EbdDecodeChecks := by
  intro s rx expect hrx
  constructor
  · rw [exec_frmEbdDec hrx, ebdDecode_eq]
    split_ifs <;> rfl
  · intro hproto
    exact decodesAs_of_decodeTo (decodeReply_ebds expect rx hproto) (exec_frmEbdDec hrx expect) rfl

/-- Settles O20: the watchdog frame is its header and one byte, and its reply is searched for two bytes. -/
theorem watchdogOperations : Obligations.WatchdogOperations := by
  intro s
  refine ⟨?encode, ?payload, ?small, ?request, ?noRequest, ?reply, ?noReply⟩
  case encode =>
    intro cmd hcap
    obtain ⟨hstored, -⟩ := exec_encode (i := .frmWdgEnc cmd) (s := s) (n := 4) rfl rfl rfl
    obtain ⟨t, hexec, hlen, htx, hrx, hframe⟩ := hstored (by omega)
    refine ⟨t, hexec, hlen, htx, hrx, hframe, fun hproto => ?_⟩
    rw [encodeExchange_wdg hproto, if_neg (by simp)]
    exact if_neg (by omega)
  case payload =>
    intro cmd payload hproto hpayload
    rw [encodeExchange_wdg hproto, if_pos hpayload]
  case small =>
    intro cmd hcap
    exact (exec_encode (i := .frmWdgEnc cmd) rfl rfl rfl).2 hcap
  case request =>
    intro cmd hrx
    exact exec_frmWdgDec hrx
  case noRequest =>
    intro rx hrx hne
    exact ⟨.none, by rw [exec_frmWdgDec hrx, wdgDecode_of_ne hne]; rfl⟩
  case reply =>
    intro rx hrx hfound
    have hcheck : wdgCheck rx = true := (wdgCheck_iff rx).2 hfound
    refine ⟨⟨.none, ?_⟩, fun hproto => ?_⟩
    · rw [exec_frmWdgChk hrx, hcheck]
      rfl
    · rw [decodeReply_wdg _ _ hproto, hcheck]
      rfl
  case noReply =>
    intro rx hrx hmissing
    have hcheck : wdgCheck rx = false := by
      rw [← Bool.not_eq_true, wdgCheck_iff]
      exact fun ⟨i, hi⟩ => hmissing i hi
    refine ⟨⟨.none, ?_⟩, fun hproto => ?_⟩
    · rw [exec_frmWdgChk hrx, hcheck]
      rfl
    · rw [decodeReply_wdg _ _ hproto, hcheck]
      rfl

end Sys2Proof.Machine
end

section
/-! The CCNET scan by position: what stands at an index decides what the scan makes of it, the scan stops at the first
checksum-valid candidate, and without one its error says whether a whole candidate was seen (41_framers.md R178 to R183). -/

namespace Sys2Proof.Machine

/-! ### A candidate at an index -/

theorem slice_drop (bs : Bytes) (i start stop : Nat) :
    slice (bs.drop i) start stop = slice bs (i + start) (i + stop) := by
  rw [slice, slice, List.drop_drop, Nat.add_sub_add_left]

theorem ccnWhole_drop (rx : Bytes) (i len : Nat) : CcnWhole (rx.drop i) 0 len ↔ CcnWhole rx i len := by
  simp only [CcnWhole, List.getElem?_drop, List.length_drop, Nat.add_zero, Nat.zero_add]
  refine and_congr_right fun _ => and_congr_right fun _ => and_congr_right fun _ => ?_
  omega

section
variable {rx : Bytes} {i len : Nat} (p : Params)

/-- At the head of a buffer: a whole candidate is valid or fails its CRC (41_framers.md R178, R181). -/
theorem ccnCandidate_of_whole (h : CcnWhole rx 0 len) :
    ccnCandidate p rx =
      if instanceCrc p (slice rx 0 (len - 2)) = ofLoHi (rx.getD (len - 2) 0) (rx.getD (len - 1) 0) then
        .valid (rx.getD 1 0) (rx.getD 3 0) (slice rx 4 (len - 2))
      else .crcFailed := by
  obtain ⟨hsync, hlen, hmin, hfit⟩ := h
  rw [Nat.zero_add] at hfit
  have htrailer : rx.drop (len - 2) = rx.getD (len - 2) 0 :: rx.getD (len - 1) 0 :: rx.drop len := by
    rw [List.drop_eq_getElem_cons (by omega), List.drop_eq_getElem_cons (by omega)]
    simp only [show len - 2 + 1 = len - 1 by omega, show len - 1 + 1 = len by omega]
    rw [List.getD_eq_getElem _ _ (by omega), List.getD_eq_getElem _ _ (by omega)]
  obtain ⟨sync, addr, l, cmd, b, rest, rfl⟩ := exists_eq_cons_of_five_le (by omega : 5 ≤ rx.length)
  obtain rfl : sync = syncByte := Option.some.inj hsync
  obtain rfl : l.toNat = len := Option.some.inj hlen
  simp only [ccnCandidate, hmin, hfit, and_self, if_true, htrailer]
  rfl

theorem ccnCandidate_of_not_whole (h : ∀ len, ¬ CcnWhole rx 0 len) : ccnCandidate p rx = .dropped := by
  unfold ccnCandidate
  split
  next sync addr len cmd rest =>
    rw [if_neg]
    rintro ⟨rfl, hmin, hfit⟩
    exact h len.toNat ⟨rfl, rfl, hmin, by rwa [Nat.zero_add]⟩
  next => rfl

theorem ccnCandidate_drop_of_whole (h : CcnWhole rx i len) :
    ccnCandidate p (rx.drop i) =
      if instanceCrc p (slice rx i (i + len - 2)) = ofLoHi (rx.getD (i + len - 2) 0) (rx.getD (i + len - 1) 0) then
        .valid (rx.getD (i + 1) 0) (rx.getD (i + 3) 0) (slice rx (i + 4) (i + len - 2))
      else .crcFailed := by
  have hmin : 6 ≤ len := h.2.2.1
  rw [ccnCandidate_of_whole p ((ccnWhole_drop rx i len).2 h)]
  simp only [slice_drop, List.getD_eq_getElem?_getD, List.getElem?_drop, Nat.add_zero,
    show i + (len - 2) = i + len - 2 by omega, show i + (len - 1) = i + len - 1 by omega]

theorem ccnCandidate_drop_of_not_whole (h : ∀ len, ¬ CcnWhole rx i len) : ccnCandidate p (rx.drop i) = .dropped :=
  ccnCandidate_of_not_whole p fun len hwhole => h len ((ccnWhole_drop rx i len).1 hwhole)

end

section
variable {p : Params} {rx : Bytes} {i len : Nat}

theorem ccnCandidate_drop_of_valid (h : CcnValid p rx i len) :
    ccnCandidate p (rx.drop i) = .valid (rx.getD (i + 1) 0) (rx.getD (i + 3) 0) (slice rx (i + 4) (i + len - 2)) := by
  obtain ⟨hwhole, hcrc⟩ := h
  rw [ccnCandidate_drop_of_whole p hwhole, if_pos hcrc]

theorem ccnCandidate_drop_of_crc_failed (hwhole : CcnWhole rx i len) (h : ¬ CcnValid p rx i len) :
    ccnCandidate p (rx.drop i) = .crcFailed := by
  rw [ccnCandidate_drop_of_whole p hwhole, if_neg fun hcrc => h ⟨hwhole, hcrc⟩]

theorem ccnCandidate_drop_ne_valid (h : ∀ len, ¬ CcnValid p rx i len) (a c : Byte) (bs : Bytes) :
    ccnCandidate p (rx.drop i) ≠ .valid a c bs := by
  by_cases hwhole : ∃ len, CcnWhole rx i len
  · obtain ⟨len, hwhole⟩ := hwhole
    rw [ccnCandidate_drop_of_crc_failed hwhole (h len)]
    nofun
  · rw [ccnCandidate_drop_of_not_whole p (not_exists.1 hwhole)]
    nofun

theorem ccnCandidate_drop_crcFailed_iff (h : ∀ len, ¬ CcnValid p rx i len) :
    ccnCandidate p (rx.drop i) = .crcFailed ↔ ∃ len, CcnWhole rx i len := by
  constructor
  · intro hfailed
    by_contra hnone
    rw [ccnCandidate_drop_of_not_whole p (not_exists.1 hnone)] at hfailed
    cases hfailed
  · rintro ⟨len, hwhole⟩
    exact ccnCandidate_drop_of_crc_failed hwhole (h len)

end

/-! ### The scan -/

/-- The scan steps over every candidate that is not valid and stops at the first that is (41_framers.md R180). -/
theorem ccnScan_found {p : Params} {tail bs : Bytes} {a c : Byte} {k : Nat}
    (hvalid : ccnCandidate p (tail.drop k) = .valid a c bs)
    (hbefore : ∀ j < k, ∀ a c bs, ccnCandidate p (tail.drop j) ≠ .valid a c bs) (i : Nat) (saw : Bool) :
    ccnScan p i saw tail = .found (i + k) a c bs := by
  induction k generalizing tail i saw with
  | zero =>
    cases tail with
    | nil => cases hvalid
    | cons b tail =>
      rw [List.drop_zero] at hvalid
      simp only [ccnScan, hvalid, Nat.add_zero]
  | succ k ih =>
    cases tail with
    | nil => cases hvalid
    | cons b tail =>
      have hrest := ih (tail := tail) hvalid (fun j hj => hbefore (j + 1) (by omega)) (i + 1)
      rw [show i + 1 + k = i + (k + 1) by omega] at hrest
      cases hhead : ccnCandidate p (b :: tail) with
      | valid a c bs => exact absurd hhead (hbefore 0 (by omega) a c bs)
      | crcFailed => simp only [ccnScan, hhead, hrest]
      | dropped => simp only [ccnScan, hhead, hrest]

/-- Without a valid candidate the scan ends at the end of the buffer and remembers a failed CRC (41_framers.md R182). -/
theorem ccnScan_exhausted {p : Params} {tail : Bytes}
    (hnone : ∀ j a c bs, ccnCandidate p (tail.drop j) ≠ .valid a c bs) (i : Nat) (saw : Bool) :
    ∃ saw', ccnScan p i saw tail = .exhausted saw' ∧
      (saw' = true ↔ saw = true ∨ ∃ j, ccnCandidate p (tail.drop j) = .crcFailed) := by
  induction tail generalizing i saw with
  | nil => exact ⟨saw, rfl, by simp [ccnCandidate]⟩
  | cons b tail ih =>
    have hrest := ih (fun j => hnone (j + 1)) (i + 1)
    have hsplit : (∃ j, ccnCandidate p ((b :: tail).drop j) = .crcFailed) ↔
        ccnCandidate p (b :: tail) = .crcFailed ∨ ∃ j, ccnCandidate p (tail.drop j) = .crcFailed :=
      Nat.or_exists_add_one.symm
    simp only [hsplit, ccnScan]
    cases hhead : ccnCandidate p (b :: tail) with
    | valid a c bs => exact absurd hhead (hnone 0 a c bs)
    | crcFailed => simpa using hrest true
    | dropped => simpa using hrest saw

/-! ### The decoder -/

section
variable {p : Params} {rx : Bytes}

/-- FRM.CCN.DEC where a checksum-valid candidate exists: the first one, and its address alone is compared (41_framers.md
R178, R183). -/
theorem ccnDecode_of_first_valid {i len : Nat} (expect : Byte) (hvalid : CcnValid p rx i len)
    (hfirst : ∀ j m, j < i → ¬ CcnValid p rx j m) :
    ccnDecode p expect rx =
      if rx.getD (i + 1) 0 = expect then .frame (rx.getD (i + 3) 0) (slice rx (i + 4) (i + len - 2)) i
      else .wrongAddress i := by
  have hscan := ccnScan_found (ccnCandidate_drop_of_valid hvalid)
    (fun j hj => ccnCandidate_drop_ne_valid fun m => hfirst j m hj) 0 false
  rw [Nat.zero_add] at hscan
  simp only [ccnDecode, hscan, ite_not]

theorem ccnDecode_of_crc_failed (expect : Byte) (hnone : ∀ i len, ¬ CcnValid p rx i len)
    (hwhole : ∃ i len, CcnWhole rx i len) : ccnDecode p expect rx = .failed .checksum := by
  obtain ⟨saw, hscan, hsaw⟩ := ccnScan_exhausted (fun i => ccnCandidate_drop_ne_valid (hnone i)) 0 false
  obtain ⟨i, hi⟩ := hwhole
  obtain rfl : saw = true := hsaw.2 (Or.inr ⟨i, (ccnCandidate_drop_crcFailed_iff (hnone i)).2 hi⟩)
  simp only [ccnDecode, hscan]

theorem ccnDecode_of_none_whole (expect : Byte) (h : ∀ i len, ¬ CcnWhole rx i len) :
    ccnDecode p expect rx = .failed .length := by
  have hnone : ∀ i len, ¬ CcnValid p rx i len := fun i len hvalid => h i len hvalid.1
  obtain ⟨saw, hscan, hsaw⟩ := ccnScan_exhausted (fun i => ccnCandidate_drop_ne_valid (hnone i)) 0 false
  obtain rfl : saw = false := by
    rw [← Bool.not_eq_true, hsaw]
    rintro (hfalse | ⟨i, hfailed⟩)
    · cases hfalse
    · obtain ⟨len, hwhole⟩ := (ccnCandidate_drop_crcFailed_iff (hnone i)).1 hfailed
      exact h i len hwhole
  simp only [ccnDecode, hscan]

end

/-- The decode step of a CCNET exchange gives a wrong address without its offset; its status is the operation's. -/
theorem decodesAs_frmCcnDec {s : State} {rx : Bytes} (ack : Bool) (hrx : s.rxBytes = some rx)
    (hproto : s.params.proto = .ccnet) : DecodesAs (.frmCcnDec s.params.ccnAddr) ack rx s := by
  refine ⟨_, exec_frmCcnDec hrx _, ?_⟩
  simp only [decodeReply, hproto]
  cases ccnDecode s.params s.params.ccnAddr rx with
  | frame cmd payload offset =>
    refine ⟨rfl, fun r hr => ?_, nofun⟩
    cases hr
    exact ⟨rfl, rfl⟩
  | wrongAddress offset =>
    refine ⟨rfl, nofun, fun e he => ?_⟩
    cases he
    rfl
  | failed e =>
    refine ⟨rfl, nofun, fun e' he => ?_⟩
    cases he
    rfl

/-- Settles O22: the scan of `ccnDecode`, read by position. -/
theorem ccnDecodeScan : Obligations.CcnDecodeScan := by
  intro s rx expect hrx
  rw [exec_frmCcnDec hrx]
  refine ⟨?first, ?crcFailed, ?noneWhole, ?exchange⟩
  case first =>
    intro i len hvalid hfirst
    rw [ccnDecode_of_first_valid expect hvalid hfirst]
    split_ifs <;> rfl
  case crcFailed =>
    intro hnone hwhole
    exact ⟨.none, by rw [ccnDecode_of_crc_failed expect hnone hwhole]; rfl⟩
  case noneWhole =>
    intro hnone
    exact ⟨.none, by rw [ccnDecode_of_none_whole expect hnone]; rfl⟩
  case exchange =>
    rintro hproto rfl
    exact decodesAs_frmCcnDec s.ebdAck hrx hproto

end Sys2Proof.Machine
end

section
/-! The session operations beside the exchange, and the identity signatures (42_exchange_retry.md R222 to R225, R243 to
R246). -/

namespace Sys2Proof.Machine

/-! ### SES.START, SES.STOP, SES.CLOSE, SES.STOPREQ -/

/-- An operation in a state where it is not legal is a status alone (60_exceptions.md R406). -/
theorem execSesStart_refused {s : State} (h : s.sesState ≠ .identified) : execSesStart s = .next s.refuse :=
  congrArg Host.Outcome.next (if_pos h)

theorem execSesClose_refused {s : State} (h : s.sesState ≠ .identified) : execSesClose s = .next s.refuse :=
  congrArg Host.Outcome.next (if_pos h)

theorem execSesStop_refused {s : State} (h : s.sesState ≠ .polling) : execSesStop s = .next s.refuse :=
  congrArg Host.Outcome.next (if_pos h)

theorem execSesStart_opened {s : State} (h : s.sesState = .identified) (hopen : s.openAnswer = true) :
    execSesStart s =
      .next ({ s.openPort.2 with sesState := .polling, stopPoll := false }.escReset.succeed .none) := by
  simp only [execSesStart, openPort_eq, hopen, h, ne_eq, not_true_eq_false, if_false]

theorem execSesStart_failed {s : State} (h : s.sesState = .identified) (hopen : s.openAnswer = false) :
    execSesStart s =
      .next ({ s.openPort.2 with sesState := .closed, devAvail := false }.raise .portError .none) := by
  simp only [execSesStart, openPort_eq, hopen, h, ne_eq, not_true_eq_false, if_false]

theorem execSesStop_polling {s : State} (h : s.sesState = .polling) :
    execSesStop s = .next ({ s.closePort with sesState := .closed }.escReset.succeed .none) :=
  congrArg Host.Outcome.next (if_neg (not_not.2 h))

theorem execSesClose_identified {s : State} (h : s.sesState = .identified) :
    execSesClose s = .next ({ s with sesState := .closed, devAvail := false }.succeed .none) :=
  congrArg Host.Outcome.next (if_neg (not_not.2 h))

/-- Settles O34: each operation by its legality and, for SES.START, by the answer of PortOpen. -/
theorem sessionStateOperations : Obligations.SessionStateOperations := by
  intro s
  refine ⟨?opened, ?openFailed, ?stopped, ?closed, ?notIdentified, ?notPolling, .none, rfl⟩
  case opened =>
    intro hs hopen
    refine ⟨.none, (execSesStart_opened hs hopen).trans ?_⟩
    simp only [openPort_eq, hopen]
    rfl
  case openFailed =>
    intro hs hopen
    refine ⟨.none, (execSesStart_failed hs hopen).trans ?_⟩
    simp only [openPort_eq, hopen]
    rfl
  case stopped => exact fun hs => ⟨.none, execSesStop_polling hs⟩
  case closed => exact fun hs => ⟨.none, execSesClose_identified hs⟩
  case notIdentified => exact fun hs => ⟨⟨.none, execSesStart_refused hs⟩, .none, execSesClose_refused hs⟩
  case notPolling => exact fun hs => ⟨.none, execSesStop_refused hs⟩

/-! ### Identity signatures -/

/-- A length byte is 0 for the empty payload alone (30_encoding.md R90, R108). -/
theorem lengthByte_eq_zero_iff {payload : Bytes} (h : payload.length ≤ 255) :
    BitVec.ofNat 8 payload.length = 0 ↔ payload = [] := by
  rw [← BitVec.toNat_inj, BitVec.toNat_ofNat, Nat.mod_eq_of_lt (by omega), ← List.length_eq_zero_iff]
  rfl

theorem cctFrame_take_three (dest src cmd : Byte) (payload : Bytes) :
    (cctFrame dest src cmd payload).take 3 = [dest, BitVec.ofNat 8 payload.length, src] := rfl

theorem identCommand_ccnet {p : Params} (h : p.proto = .ccnet) : identCommand p = p.cmdPoll := by
  simp only [identCommand, h]

theorem identCommand_of_ne_ccnet {p : Params} (h : p.proto ≠ .ccnet) : identCommand p = p.cmdIdent := by
  unfold identCommand
  split
  next hccnet => exact absurd hccnet h
  all_goals rfl

/-- Settles O37: what the cctalk signature asks of the decoded fields is what R243 asks of the bytes, since the accepted
buffer is the frame of its fields; the other families read one field. -/
theorem identitySignatures : Obligations.IdentitySignatures := by
  intro p rx src cmd payload term body info offset cls
  refine ⟨?cctalk, by simp [signature], identCommand_ccnet, identCommand_of_ne_ccnet, ?ebds, rfl, by simp [signature]⟩
  case cctalk =>
    intro haddr hdecode
    obtain ⟨rfl, hlen⟩ := cctDecode_ok hdecode
    rw [cctFrame_take_three, haddr]
    simp only [signature, decide_eq_true_eq, List.cons.injEq, lengthByte_eq_zero_iff hlen, true_and, and_true]
  case ebds => simp [signature, Nat.one_le_iff_ne_zero]

end Sys2Proof.Machine
end

section
/-! How an exchange ends at the port: what a failed write leaves, and how often an exchange transmits
(42_exchange_retry.md R237, R239). -/

namespace Sys2Proof.Machine

/-- A transmission that ends the exchange ends its loop, whatever is left of the budget. -/
theorem exchangeLoop_of_ended {f : Bytes} {ack : Bool} {s t : State} {e : ExchEnd} (left : Nat)
    (h : attempt f ack s = .ended t e) : exchangeLoop f ack left s = (t, e) := by
  cases left <;> simp only [exchangeLoop, h]

theorem mayExchange_of_polling {s : State} (hs : s.sesState = .polling) (hp : s.portOpen = true) :
    s.mayExchange = true := by
  simp [State.mayExchange, hs, hp]

/-- The loop that a legal exchange runs on its encoded request (42_exchange_retry.md R230). -/
theorem exchange_eq_loop {cmd payload f : Bytes} {s : State} (hm : s.mayExchange = true)
    (hf : encodeExchange s.params s.ebdAck cmd payload = some f) :
    exchange cmd payload s = exchangeLoop f s.ebdAck (retransmissions s.params) (s.beginExchange f) := by
  simp only [exchange, hm, hf, if_true]

/-! ### A failed write -/

/-- A transmission whose write fails, whole: nothing follows the write but the teardown (42_exchange_retry.md R239). -/
theorem attempt_of_writeFailed {f : Bytes} (ack : Bool) {s : State} (h : s.writeAnswer = false) :
    attempt f ack s = .ended (afterWrite f s).teardown.finishExchange (.failed .portError) := by
  simp only [attempt, writePhase_eq, h, Bool.false_eq_true, if_false]

/-- What a failed write does to a polling session before the teardown (20_memory.md R66, R79). -/
theorem afterWrite_failed {f : Bytes} {s : State} (hs : s.sesState = .polling) (h : s.writeAnswer = false) :
    afterWrite f s = { s with
      trace := s.trace ++ [(.tx, f)], writeScript := s.writeScript.tail, portCalls := s.portCalls + 1
      serialTx := s.serialTx ++ f.take (Config.portWriteReached s.portCalls) } := by
  have htraced : s.traced .tx f = { s with trace := s.trace ++ [(.tx, f)] } := if_pos hs
  have hanswer : (s.traced .tx f).writeAnswer = false := by rw [htraced]; exact h
  rw [afterWrite, writePort_eq, hanswer, htraced]
  rfl

theorem writeAnswer_of_script {s : State} {a : Bool} {ws : List Bool} (h : s.writeScript = a :: ws) :
    s.writeAnswer = a := by
  simp only [State.writeAnswer, h]

/-- Settles O40: the exchange is its first transmission, which is the failed write and the teardown. -/
theorem portFailureTearsDown : Obligations.PortFailureTearsDown := by
  constructor
  · intro s cmd payload f ws hs hp hscript hf
    have hfailed : (s.beginExchange f).writeAnswer = false := writeAnswer_of_script hscript
    have hexchange : exchange cmd payload s =
        ((afterWrite f (s.beginExchange f)).teardown.finishExchange, .failed .portError) :=
      (exchange_eq_loop (mayExchange_of_polling hs hp) hf).trans
        (exchangeLoop_of_ended _ (attempt_of_writeFailed _ hfailed))
    rw [afterWrite_failed (s := s.beginExchange f) hs hfailed, beginExchange_writeScript, hscript] at hexchange
    refine ⟨_, .none, f.take (Config.portWriteReached s.portCalls), (execSesExchange_eq cmd payload s :),
      List.take_prefix _ _, ?_, ?_⟩ <;> rw [hexchange]
    · exact Memory.read_store f
    · rfl
  · intro s f ack ws hscript
    refine ⟨_, attempt_of_writeFailed ack (writeAnswer_of_script hscript), ?_⟩
    simp [afterWrite, writePort_eq]

/-! ### The number of transmissions -/

/-- The replies an exchange has counted so far, of both kinds (10_state.md R34). -/
def countedReplies (s : State) : Nat := s.nakCnt.toNat + s.errCnt.toNat

theorem countedReplies_beginExchange (s : State) (f : Bytes) : countedReplies (s.beginExchange f) = 0 := rfl

/-- An exchange that ended after `m` retransmissions: `m` times the frame, and the last transmission, of which a failed write
sends a part. An exhausted exchange has counted each reply, and only the counter that ended it is at its bound. -/
structure EndedAfter (f : Bytes) (m : Nat) (s t : State) (e : ExchEnd) : Prop where
  sent : ∃ last, t.serialTx = s.serialTx ++ (List.replicate m f).flatten ++ last ∧ last <+: f ∧
    (e ≠ .failed .portError → last = f)
  counted : ∀ l, e = .failed (.exhausted l) → countedReplies t = countedReplies s + (m + 1)
  errBelow : e = .failed (.exhausted .nakBusy) → t.errCnt.toNat < maxErr s.params
  nakBelow : ∀ d, e = .failed (.exhausted (.error d)) → t.nakCnt.toNat < maxNak s.params

/-- What a transmission adds to the count: one reply if another transmission follows. -/
def Turn.Counts (f : Bytes) (s : State) : Turn → Prop
  | .again t _ => countedReplies t = countedReplies s + 1
  | .ended t e => EndedAfter f 0 s t e

/-- A transmission that got through and ended the exchange. -/
theorem EndedAfter.of_sent {f : Bytes} {s t : State} {e : ExchEnd} (h : t.serialTx = s.serialTx ++ f)
    (counted : ∀ l, e = .failed (.exhausted l) → countedReplies t = countedReplies s + 1)
    (errBelow : e = .failed (.exhausted .nakBusy) → t.errCnt.toNat < maxErr s.params)
    (nakBelow : ∀ d, e = .failed (.exhausted (.error d)) → t.nakCnt.toNat < maxNak s.params) :
    EndedAfter f 0 s t e :=
  ⟨⟨f, by simp [h], List.prefix_rfl, fun _ => rfl⟩, counted, errBelow, nakBelow⟩

theorem attempt_counts (f : Bytes) (ack : Bool) {left : Nat} {s : State} (h : Ready left s) :
    (attempt f ack s).Counts f s := by
  cases hw : s.writeAnswer with
  | false =>
    obtain ⟨t, ha, -, -, htx, -⟩ := attempt_portError (f := f) (ack := ack) hw
    rw [ha]
    exact ⟨⟨_, by simpa using htx, List.take_prefix _ _, fun he => absurd rfl he⟩, nofun, nofun, nofun⟩
  | true =>
    by_cases hr : replyBytes s = []
    · obtain ⟨t, ha, hsent, -⟩ := attempt_timeout (f := f) (ack := ack) hw hr
      rw [ha]
      exact .of_sent hsent.serialTx nofun nofun nofun
    · cases hk : kindOf s.params ack (replyBytes s) with
      | answer r =>
        obtain ⟨t, ha, hsent, -⟩ := attempt_answer (f := f) hw hr hk
        rw [ha]
        exact .of_sent hsent.serialTx nofun nofun nofun
      | nakBusy =>
        obtain ⟨t, hsent, hnak, herr, -, hcase⟩ := attempt_nak (f := f) hw hr hk
        have hcount : countedReplies t = countedReplies s + 1 := by
          rw [countedReplies, countedReplies, hnak, herr, byte_succ h.nak (maxNak_le h.bounds)]
          omega
        rcases hcase with ⟨-, ha, -⟩ | ⟨-, ha, -⟩ <;> rw [ha]
        · exact hcount
        · exact .of_sent hsent.serialTx (fun _ _ => hcount) (fun _ => herr ▸ h.err) nofun
      | error d =>
        obtain ⟨t, hsent, herr, hnak, -, hcase⟩ := attempt_error (f := f) hw hr hk
        have hcount : countedReplies t = countedReplies s + 1 := by
          rw [countedReplies, countedReplies, hnak, herr, byte_succ h.err (maxErr_le h.bounds)]
          omega
        rcases hcase with ⟨-, ha, -⟩ | ⟨-, ha, -⟩ <;> rw [ha]
        · exact hcount
        · exact .of_sent hsent.serialTx (fun _ _ => hcount) nofun (fun _ _ => hnak ▸ h.nak)

/-- A transmission before the rest is one retransmission more. -/
theorem EndedAfter.after {f : Bytes} {m : Nat} {s a t : State} {e : ExchEnd} (hsent : Sent f s a)
    (hcount : countedReplies a = countedReplies s + 1) (h : EndedAfter f m a t e) : EndedAfter f (m + 1) s t e where
  sent := by
    obtain ⟨last, htx, hprefix, hwhole⟩ := h.sent
    refine ⟨last, ?_, hprefix, hwhole⟩
    rw [htx, hsent.serialTx, List.replicate_succ, List.flatten_cons]
    simp only [List.append_assoc]
  counted l he := by rw [h.counted l he, hcount]; omega
  errBelow he := hsent.kept.params ▸ h.errBelow he
  nakBelow d he := hsent.kept.params ▸ h.nakBelow d he

/-- The loop of an exchange transmits once and then at most once per unit of its budget (42_exchange_retry.md R237). -/
theorem exchangeLoop_endedAfter (f : Bytes) (ack : Bool) (left : Nat) (s : State) (h : Ready left s) :
    ∃ m ≤ left, EndedAfter f m s (exchangeLoop f ack left s).1 (exchangeLoop f ack left s).2 := by
  induction left generalizing s with
  | zero =>
    have hcounts := attempt_counts f ack h
    rcases attempt_cases f ack h with ⟨t, e, ha, -⟩ | ⟨t, l, left', -, hleft, -⟩
    · rw [ha] at hcounts
      rw [exchangeLoop_of_ended 0 ha]
      exact ⟨0, Nat.le_refl 0, hcounts⟩
    · omega
  | succ left ih =>
    have hcounts := attempt_counts f ack h
    rcases attempt_cases f ack h with ⟨t, e, ha, -⟩ | ⟨t, l, left', ha, hleft, hsent, -, hready⟩
    · rw [ha] at hcounts
      rw [exchangeLoop_of_ended _ ha]
      exact ⟨0, Nat.zero_le _, hcounts⟩
    · obtain rfl : left = left' := by omega
      rw [ha] at hcounts
      obtain ⟨m, hm, hrest⟩ := ih t hready
      simp only [exchangeLoop, ha]
      exact ⟨m + 1, by omega, hrest.after hsent hcounts⟩

/-- The status an exchange latches tells a failed write and an exhausted bound from every other end (60_exceptions.md
R380). -/
theorem shown_portError_iff (e : ExchEnd) : e.shown.1 = 0x07 ↔ e = .failed .portError := by
  rcases e with _ | ⟨_ | _ | _ | _ | _⟩ <;> simp [ExchEnd.shown, ExchErr.status, Status.code]

theorem shown_exhausted_iff (e : ExchEnd) : e.shown.1 = 0x05 ↔ ∃ l, e = .failed (.exhausted l) := by
  rcases e with _ | ⟨_ | _ | _ | _ | _⟩ <;> simp [ExchEnd.shown, ExchErr.status, Status.code]

/-- Exactly one flag is set, its counter at its bound and the other below (42_exchange_retry.md R237). -/
abbrev OneBoundReached (p : Params) (t : State) : Prop :=
  (t.fNakExh = true ∧ t.fErrExh = false ∧ t.nakCnt.toNat = maxNak p ∧ t.errCnt.toNat < maxErr p) ∨
    (t.fNakExh = false ∧ t.fErrExh = true ∧ t.errCnt.toNat = maxErr p ∧ t.nakCnt.toNat < maxNak p)

theorem oneBoundReached_of_exhausted {f : Bytes} {left m : Nat} {s t : State} {l : LastReply}
    (hfinished : Finished f left s t (.failed (.exhausted l))) (hended : EndedAfter f m s t (.failed (.exhausted l))) :
    OneBoundReached s.params t := by
  cases l with
  | nakBusy =>
    obtain ⟨hnakFlag, herrFlag, hnak⟩ := hfinished.byNak rfl
    exact Or.inl ⟨hnakFlag, herrFlag, hnak, hended.errBelow rfl⟩
  | error d =>
    obtain ⟨hnakFlag, herrFlag, herr⟩ := hfinished.byErr d rfl
    exact Or.inr ⟨hnakFlag, herrFlag, herr, hended.nakBelow d rfl⟩

/-- An exhausted exchange has transmitted at least the smaller bound: each transmission added one reply to the count, and one
counter is at its bound. -/
theorem min_bound_le_of_exhausted {f : Bytes} {m : Nat} {s t : State} {l : LastReply}
    (hended : EndedAfter f m s t (.failed (.exhausted l))) (hstart : countedReplies s = 0)
    (hbound : OneBoundReached s.params t) : min (maxNak s.params) (maxErr s.params) ≤ m + 1 := by
  have hcount := hended.counted l rfl
  rw [hstart, countedReplies] at hcount
  rcases hbound with ⟨-, -, hnak, -⟩ | ⟨-, -, herr, -⟩ <;> omega

/-- Settles O43: an exchange that ended after `m` retransmissions sent the frame `m + 1` times, or `m` times and a part. -/
theorem exchangeTransmissionBound : Obligations.ExchangeTransmissionBound := by
  intro s t cmd payload f hbounds hs hp hf hexec
  have hmay := mayExchange_of_polling hs hp
  have hfinished := exchange_finished hbounds hmay hf
  obtain ⟨m, hm, hended⟩ := exchangeLoop_endedAfter f s.ebdAck _ _ (beginExchange_ready (f := f) hbounds)
  rw [← exchange_eq_loop hmay hf] at hended
  obtain rfl := Host.Outcome.next.inj ((execSesExchange_eq cmd payload s).symm.trans hexec)
  generalize exchange cmd payload s = ended at hfinished hended
  obtain ⟨a, e⟩ := ended
  obtain ⟨hnakPos, herrPos⟩ := bounds_pos hbounds
  have hle : m + 1 ≤ maxNak s.params + maxErr s.params - 1 := by
    rw [retransmissions] at hm
    omega
  have hexhausted : e.shown.1 = 0x05 →
      min (maxNak s.params) (maxErr s.params) ≤ m + 1 ∧ OneBoundReached s.params a := by
    intro hcode
    obtain ⟨l, rfl⟩ := (shown_exhausted_iff e).1 hcode
    have hbound := oneBoundReached_of_exhausted hfinished hended
    have hstart := countedReplies_beginExchange s f
    exact ⟨min_bound_le_of_exhausted (s := s.beginExchange f) hended hstart hbound, hbound⟩
  have hflags : e.shown.1 ≠ 0x05 → a.fNakExh = false ∧ a.fErrExh = false := fun hcode =>
    hfinished.notExh fun l he => hcode ((shown_exhausted_iff e).2 ⟨l, he⟩)
  obtain ⟨last, htx, hprefix, hwhole⟩ := hended.sent
  by_cases hport : e = .failed .portError
  · have hcode : e.shown.1 = 0x07 := (shown_portError_iff e).2 hport
    exact ⟨m, last, htx, hprefix, fun h => absurd hcode h, fun _ => hle,
      fun h => absurd (h.symm.trans hcode) (by decide), hflags⟩
  · obtain rfl := hwhole hport
    refine ⟨m + 1, [], ?_, List.nil_prefix, fun _ => ⟨rfl, by omega, hle⟩,
      fun h => absurd ((shown_portError_iff e).1 h) hport, hexhausted, hflags⟩
    rw [List.replicate_succ', List.flatten_concat, List.append_nil, ← List.append_assoc]
    exact htx

end Sys2Proof.Machine
end

section
/-! The escrow unit (43_escrow.md R273 to R290): ESC.CFG, ESC.DBERR, and ESC.POLL at every poll state. -/

namespace Sys2Proof.Machine

/-- Settles O48: each operation is its register write and the latching of OK. -/
theorem escConfiguration : Obligations.EscConfiguration :=
  fun _ => ⟨fun _ _ => ⟨.none, rfl⟩, fun _ => ⟨.none, rfl⟩⟩

/-- ESC.POLL while polling is the poll of SES.CYCLE, with its decision latched (43_escrow.md R274). -/
theorem execEscPoll_polling {s : State} (st : PollState) (now : Word) (h : s.sesState = .polling) :
    execEscPoll st now s =
      .next ((poll st now s).1.succeed (.decision (poll st now s).2 (repollOf (poll st now s).2))) :=
  congrArg Host.Outcome.next (if_neg (not_not.2 h))

/-! ### Stacked, and the states without a decision -/

/-- Settles O50: the poll clears the acceptance, and its events are the change of state and the credit. -/
theorem stackedCreditsOnce : Obligations.StackedCreditsOnce := by
  intro s d now hs
  refine (execEscPoll_polling (.stacked d) now hs).trans ?_
  rw [poll_stacked]
  rfl

/-- A state that is none of the four with a rule of its own only gets recorded (43_escrow.md R290). -/
theorem isSideState_of_ne {st : PollState} (hesc : ∀ d, st ≠ .escrow d) (hstk : ∀ d, st ≠ .stacked d)
    (hret : st ≠ .returned) (hidle : st ≠ .idling) : isSideState st = true := by
  unfold isSideState
  split
  next d => exact absurd rfl (hesc d)
  next d => exact absurd rfl (hstk d)
  next => exact absurd rfl hret
  next => exact absurd rfl hidle
  all_goals rfl

/-- A poll at a state that is neither Escrow nor Stacked, whole (43_escrow.md R288 to R290). -/
theorem poll_of_no_bill {s : State} {st : PollState} (now : Word) (hesc : ∀ d, st ≠ .escrow d)
    (hstk : ∀ d, st ≠ .stacked d) : poll st now s =
      ({ s with
          escPrev := some st
          pendAcc := if st = .returned ∨ st = .idling then false else s.pendAcc
          escrowed := if st = .idling then false else s.escrowed
          evq := s.evq ++ changeEvents s st }, .none) := by
  by_cases hret : st = .returned
  · subst hret
    exact poll_returned s now
  by_cases hidle : st = .idling
  · subst hidle
    exact poll_idling s now
  · rw [if_neg (not_or.2 ⟨hret, hidle⟩), if_neg hidle]
    exact poll_side s st now (isSideState_of_ne hesc hstk hret hidle)

/-- Settles O51: no state but Escrow decides a command, and the event of a change is the only one. -/
theorem otherPollStates : Obligations.OtherPollStates := by
  intro s st now hs hesc hstk
  refine (execEscPoll_polling st now hs).trans ?_
  rw [poll_of_no_bill now hesc hstk]
  rfl

/-! ### The decision at an escrow event -/

/-- The duplicate test in numbers: the time since the last escrow event, modulo 2^32 (43_escrow.md R283, R285). -/
theorem isDuplicate_iff (s : State) (now : Word) : isDuplicate s now = true ↔
    s.escrowed = true ∧ (2 ^ 32 + now.toNat - s.lastEscTime.toNat) % 2 ^ 32 < s.params.dupWindowMs := by
  have hlast := s.lastEscTime.isLt
  rw [isDuplicate, decide_eq_true_iff, BitVec.toNat_sub, Nat.sub_add_comm hlast.le]

/-- The max-sum test in numbers; the addition is exact (43_escrow.md R280, R286). -/
theorem aboveMax_iff (s : State) (d : Word) : aboveMax s d = true ↔
    s.rejectAboveMax = true ∧ s.maxSum.toNat < s.accSum.toNat + d.toNat :=
  decide_eq_true_iff

/-- Settles O49: one case per arm, in the order in which the arms exclude each other (43_escrow.md R278). -/
theorem escrowDecision : Obligations.EscrowDecision := by
  intro s d now hs
  dsimp only
  refine (execEscPoll_polling (.escrow d) now hs).trans (congrArg Host.Outcome.next ?_)
  rw [poll_escrow]
  simp only [← isDuplicate_iff, ← aboveMax_iff]
  rcases escrowArm_cases s d now with ⟨hzero, harm⟩ | ⟨hzero, hdb, harm⟩ | ⟨hzero, hdb, hdup, harm⟩ |
    ⟨hzero, hdb, hdup, hmax, harm⟩ | ⟨hzero, hdb, hdup, hmax, harm⟩
  · -- unrecognized (R282)
    simp only [harm, armEvents, List.append_nil, if_pos hzero]
    rfl
  · -- database error (R279)
    simp only [harm, armEvents, if_neg hzero, if_pos hdb]
    rfl
  · -- duplicate (R284)
    simp only [harm, armEvents, if_neg hzero, hdb, Bool.false_eq_true, if_false, if_pos hdup]
    rfl
  · -- above the maximum (R280)
    simp only [harm, armEvents, List.append_nil, if_neg hzero, hdb, hdup, Bool.false_eq_true, if_false, if_pos hmax]
    rfl
  · -- stacked (R281)
    simp only [harm, armEvents, List.append_nil, if_neg hzero, hdb, hdup, hmax, Bool.false_eq_true, if_false, if_true,
      ← BitVec.toNat_add, BitVec.ofNat_toNat, BitVec.setWidth_eq]
    rfl

end Sys2Proof.Machine
end

section
/-! SES.CYCLE as the operations it names: SES.EXCHANGE, ESC.POLL, SES.EXCHANGE (43_escrow.md R300, R303). -/

namespace Sys2Proof.Machine

/-! ### What the operations of a cycle leave, read back from their next states -/

theorem exchange_of_exec {cmd payload : Bytes} {s t : State} (h : exec (.sesExchange cmd payload) s = .next t) :
    ∃ u e, exchange cmd payload s = (u, e) ∧ t = u.latched e.shown.1 e.shown.2 :=
  ⟨_, _, rfl, (Host.Outcome.next.inj ((execSesExchange_eq cmd payload s).symm.trans h)).symm⟩

/-- An ESC.POLL that returned a decision was not refused: it is the poll, with that decision latched. -/
theorem poll_of_exec_decision {st : PollState} {now : Word} {s t : State} {cmd : EscCmd} {repoll : Bool}
    (h : exec (.escPoll st now) s = .next t) (hdecision : t.result = .decision cmd repoll) :
    ∃ u, poll st now s = (u, cmd) ∧ repoll = repollOf cmd ∧ t = u.latched 0x00 (.decision cmd repoll) := by
  by_cases hs : s.sesState = .polling
  · obtain rfl := Host.Outcome.next.inj ((execEscPoll_polling st now hs).symm.trans h)
    obtain ⟨rfl, rfl⟩ := Result.decision.inj hdecision
    exact ⟨_, rfl, rfl, rfl⟩
  · have hrefused : execEscPoll st now s = .next s.refuse := congrArg Host.Outcome.next (if_pos hs)
    obtain rfl := Host.Outcome.next.inj (hrefused.symm.trans h)
    exact nomatch hdecision

/-- An exchange that latches OK was answered, and only it returns a reply (60_exceptions.md R380). -/
theorem shown_ok_iff (e : ExchEnd) : e.shown.1 = 0x00 ↔ ∃ r, e = .answer r := by
  rcases e with _ | ⟨_ | _ | _ | _ | _⟩ <;> simp [ExchEnd.shown, ExchErr.status, Status.code]

theorem failed_of_shown {e : ExchEnd} (h : e.shown.1 = 0x05 ∨ e.shown.1 = 0x06 ∨ e.shown.1 = 0x07) :
    ∃ err, e = .failed err := by
  cases e with
  | answer r => simp [ExchEnd.shown, Status.code] at h
  | failed err => exact ⟨err, rfl⟩

theorem shown_reply_iff (e : ExchEnd) (r : Reply) : e.shown.2 = .reply r ↔ e = .answer r := by
  rcases e with _ | ⟨_ | _ | _ | _ | _⟩ <;> simp [ExchEnd.shown, ExchErr.info]

/-! ### How a cycle ends -/

/-- The outcome of a cycle whose exchange left `a` and failed: the state and status of that exchange, and `(0, repoll)`
with Timeout and Exhausted (43_escrow.md R300, R303). -/
abbrev EndsFailed (o : Host.Outcome State Fault Refusal) (a : State) (repoll : Bool) : Prop :=
  ∃ r, o = .next { a with result := r } ∧ (a.lastErr = 0x06 → r = .cycle false repoll) ∧
    ∀ last, a.lastErr = 0x05 → a.result = .exhausted last → r = .cycleExhausted last false repoll

theorem cycleFailed_endsFailed {t : State} {e : ExchErr} {repoll : Bool}
    (h : e.status.code = 0x05 ∨ e.status.code = 0x06 ∨ e.status.code = 0x07) :
    EndsFailed (.next (t.cycleFailed e repoll)) (t.latched e.status.code e.info) repoll := by
  cases e with
  | illegal | sizeError => exact absurd h (by decide)
  | portError =>
    exact ⟨_, rfl, fun h6 => absurd h6 (by decide : 0x07#8 ≠ 0x06), fun _ h5 => absurd h5 (by decide : 0x07#8 ≠ 0x05)⟩
  | timeout => exact ⟨_, rfl, fun _ => rfl, fun _ h5 => absurd h5 (by decide : 0x06#8 ≠ 0x05)⟩
  | exhausted last =>
    refine ⟨_, rfl, fun h6 => absurd h6 (by decide : 0x05#8 ≠ 0x06), fun _ _ hlast => ?_⟩
    rw [Result.exhausted.inj hlast]

theorem cycleCommand_undecided {cmd : EscCmd} {s : State} (hc : commandOf s.params cmd = none) :
    cycleCommand cmd s = s.succeed (.cycle false (repollOf cmd)) := by
  simp only [cycleCommand, hc]

theorem cycleCommand_answered {cmd : EscCmd} {c : Bytes} {s t : State} {r : Reply} (hc : commandOf s.params cmd = some c)
    (h : exchange c [] s = (t, .answer r)) : cycleCommand cmd s = t.succeed (.cycle false (repollOf cmd)) := by
  simp only [cycleCommand, hc, h]

theorem cycleCommand_failed {cmd : EscCmd} {c : Bytes} {s t : State} {e : ExchErr} (hc : commandOf s.params cmd = some c)
    (h : exchange c [] s = (t, .failed e)) : cycleCommand cmd s = t.cycleFailed e true := by
  simp only [cycleCommand, hc, h]

/-- The end of a cycle replaces the latched status and result, so it depends on neither. -/
theorem cycleCommand_latched (code : Byte) (r : Result) (cmd : EscCmd) (s : State) :
    cycleCommand cmd (s.latched code r) = cycleCommand cmd s := by
  cases hc : commandOf s.params cmd with
  | none => rw [cycleCommand_undecided hc, cycleCommand_undecided (s := s.latched code r) hc]; rfl
  | some c =>
    obtain ⟨⟨t, e⟩, hx⟩ : ∃ ended, exchange c [] s = ended := ⟨_, rfl⟩
    have hx' : exchange c [] (s.latched code r) = (t.latched code r, e) := by rw [exchange_latched, hx]
    cases e with
    | answer _ => rw [cycleCommand_answered hc hx, cycleCommand_answered (s := s.latched code r) hc hx']; rfl
    | failed e =>
      rw [cycleCommand_failed hc hx, cycleCommand_failed (s := s.latched code r) hc hx']
      cases e <;> rfl

/-- The end of a cycle is SES.EXCHANGE of the command that was decided (43_escrow.md R300). -/
theorem cycleCommand_of_exec {cmd : EscCmd} {c : Bytes} {s t : State} (hc : commandOf s.params cmd = some c)
    (h : exec (.sesExchange c []) s = .next t) :
    (t.lastErr = 0x00 → cycleCommand cmd s = { t with result := .cycle false (repollOf cmd) }) ∧
      (t.lastErr = 0x05 ∨ t.lastErr = 0x06 ∨ t.lastErr = 0x07 → EndsFailed (.next (cycleCommand cmd s)) t true) := by
  obtain ⟨u, e, hx, rfl⟩ := exchange_of_exec h
  constructor
  · intro hok
    obtain ⟨r, rfl⟩ := (shown_ok_iff e).1 hok
    exact (cycleCommand_answered hc hx :)
  · intro hcode
    obtain ⟨err, rfl⟩ := failed_of_shown hcode
    rw [cycleCommand_failed hc hx]
    exact cycleFailed_endsFailed hcode

/-! ### The cycle -/

theorem execSesCycle_refused {s : State} (now : Word) (h : s.sesState ≠ .polling) :
    execSesCycle now s = .next s.refuse :=
  congrArg Host.Outcome.next (if_pos h)

theorem execSesCycle_stopped {s : State} (now : Word) (hs : s.sesState = .polling) (hstop : s.stopPoll = true) :
    execSesCycle now s = .next (s.succeed (.cycle true false)) := by
  simp only [execSesCycle, hs, hstop, ne_eq, not_true_eq_false, if_false, if_true]

theorem execSesCycle_running {s : State} (now : Word) (hs : s.sesState = .polling) (hstop : s.stopPoll = false) :
    execSesCycle now s = .next (cyclePoll now s) := by
  simp only [execSesCycle, hs, hstop, ne_eq, not_true_eq_false, Bool.false_eq_true, if_false]

theorem cyclePoll_failed {s t : State} {e : ExchErr} (now : Word)
    (h : exchange s.params.cmdPoll [] s = (t, .failed e)) : cyclePoll now s = t.cycleFailed e false := by
  simp only [cyclePoll, h]

theorem cyclePoll_answered {s t : State} {r : Reply} (now : Word)
    (h : exchange s.params.cmdPoll [] s = (t, .answer r)) :
    cyclePoll now s = cycleCommand (poll (interpret t.params r) now t).2 (poll (interpret t.params r) now t).1 := by
  simp only [cyclePoll, h]

theorem exchange_params {cmd payload : Bytes} {s t : State} {e : ExchEnd} (h : exchange cmd payload s = (t, e)) :
    t.params = s.params := by
  have hkept := exchange_kept cmd payload s
  rw [h] at hkept
  exact hkept.params

/-- After an answered poll command and ESC.POLL of the interpreted reply, a cycle is its end from the state they left. -/
theorem cyclePoll_decided {s a b : State} {now : Word} {reply : Reply} {cmd : EscCmd} {repoll : Bool}
    (hexchange : exec (.sesExchange s.params.cmdPoll []) s = .next a) (hreply : a.result = .reply reply)
    (hpoll : exec (.escPoll (interpret s.params reply) now) a = .next b) (hdecision : b.result = .decision cmd repoll) :
    cyclePoll now s = cycleCommand cmd b ∧ b.params = s.params := by
  obtain ⟨t, e, hx, rfl⟩ := exchange_of_exec hexchange
  obtain rfl := (shown_reply_iff e reply).1 hreply
  obtain ⟨u, hu, -, rfl⟩ := poll_of_exec_decision hpoll hdecision
  rw [poll_latched, Prod.mk.injEq] at hu
  obtain ⟨rfl, rfl⟩ := hu
  have hparams := exchange_params hx
  constructor
  · rw [cyclePoll_answered now hx, hparams, cycleCommand_latched, cycleCommand_latched]
  · exact (pollKept_poll t _ now).params.trans hparams

/-- Settles O46: the cycle is cut at the states that the three operations leave. -/
theorem cycleIsPollDecideCommand : Obligations.CycleIsPollDecideCommand := by
  refine ⟨fun s now hs => ⟨.none, execSesCycle_refused now hs⟩, fun s now => execSesCycle_stopped now, ?running⟩
  case running =>
    intro s a now hs hstop hexchange
    have hcycle : exec (.sesCycle now) s = .next (cyclePoll now s) := execSesCycle_running now hs hstop
    simp only [hcycle]
    refine ⟨fun hcode => ?pollFails, fun reply b cmd repoll _ hreply hpoll hdecision => ?decided⟩
    case pollFails =>
      obtain ⟨t, e, hx, rfl⟩ := exchange_of_exec hexchange
      obtain ⟨err, rfl⟩ := failed_of_shown hcode
      rw [cyclePoll_failed now hx]
      exact cycleFailed_endsFailed hcode
    case decided =>
      obtain ⟨hend, hparams⟩ := cyclePoll_decided hexchange hreply hpoll hdecision
      obtain ⟨u, -, rfl, rfl⟩ := poll_of_exec_decision hpoll hdecision
      rw [hend]
      refine ⟨?nothing, fun code d hcmd hcommand => ?command⟩
      case nothing => rintro rfl; exact congrArg Host.Outcome.next (cycleCommand_undecided rfl)
      case command =>
        have hc : commandOf (u.latched 0x00 (.decision cmd (repollOf cmd))).params cmd = some code := by
          rw [hparams]
          rcases hcmd with ⟨rfl, rfl⟩ | ⟨rfl, rfl⟩ <;> rfl
        obtain ⟨hanswered, hfailed⟩ := cycleCommand_of_exec hc hcommand
        exact ⟨fun hok => congrArg Host.Outcome.next (hanswered hok), hfailed⟩

end Sys2Proof.Machine
end

section
/-! The AT lines (44_at_decoder.md): ATD.ENC's line and its refusal, the body and the lines of a response by the positions of
its CRLF pairs, and the class of its terminal line. -/

namespace Sys2Proof.Machine

/-! ### The line of ATD.ENC -/

theorem atTextOk_iff (text : Bytes) (term : Bool) :
    atTextOk text term = true ↔ 0x0D ∉ text ∧ 0x0A ∉ text ∧ ¬ (term = true ∧ 0x1A ∈ text) := by
  simp only [atTextOk, List.all_eq_true, decide_eq_true_eq]
  constructor
  · intro h
    exact ⟨fun hcr => (h _ hcr).1 rfl, fun hlf => (h _ hlf).2.1 rfl, fun ⟨hterm, hz⟩ => (h _ hz).2.2 ⟨hterm, rfl⟩⟩
  · rintro ⟨hcr, hlf, hz⟩ b hb
    refine ⟨?_, ?_, ?_⟩
    · rintro rfl
      exact hcr hb
    · rintro rfl
      exact hlf hb
    · rintro ⟨hterm, rfl⟩
      exact hz ⟨hterm, hb⟩

/-- ATD.ENC's checks in order, and its line (44_at_decoder.md R332). -/
theorem atEncode_eq (p : Params) (text : Bytes) (term : Bool) :
    atEncode p text term =
      if p.txCap < text.length + 1 ∨ 0x0D ∈ text ∨ 0x0A ∈ text ∨ (term = true ∧ 0x1A ∈ text) then none
      else some (text ++ [if term then 0x1A else 0x0D]) := by
  have hrefused : ¬ atTextOk text term = true ↔ 0x0D ∈ text ∨ 0x0A ∈ text ∨ (term = true ∧ 0x1A ∈ text) := by
    rw [atTextOk_iff]
    tauto
  by_cases hlong : p.txCap < text.length + 1
  · rw [atEncode, if_pos hlong, if_pos (Or.inl hlong)]
  · by_cases hok : atTextOk text term = true
    · rw [atEncode, if_neg hlong, if_pos hok, if_neg (not_or.2 ⟨hlong, mt hrefused.2 (not_not.2 hok)⟩)]
      rfl
    · rw [atEncode, if_neg hlong, if_neg hok, if_pos (Or.inr (hrefused.1 hok))]

theorem encodeExchange_at {p : Params} (ack : Bool) (text payload : Bytes) (h : p.proto = .at) :
    encodeExchange p ack text payload = if payload ≠ [] then none else atEncode p text false := by
  simp only [encodeExchange, h]

/-- Settles O26: `atEncode` is the checks of R332 around the line of R103, and an exchange sends the line with CR. -/
theorem atdEncodeResult : Obligations.AtdEncodeResult := by
  intro s text term refused
  have hencode := atEncode_eq s.params text term
  obtain ⟨hstored, hrefused⟩ := exec_encode (i := .atdEnc text term) (n := text.length + 1) rfl hencode (by simp)
  refine ⟨hstored, hrefused, ?line, fun hproto payload hpayload => ?payload⟩
  case line =>
    rintro hproto rfl
    rw [encodeExchange_at s.ebdAck text [] hproto, if_neg (by simp), hencode]
    exact ⟨fun hfits => if_neg hfits, fun hrefused => if_pos hrefused⟩
  case payload => rw [encodeExchange_at s.ebdAck text payload hproto, if_pos hpayload]

/-! ### The class of a terminal line -/

theorem strConnect_isPrefixOf_iff (t : Bytes) : strConnect.isPrefixOf t = true ↔ t.take 7 = strConnect := by
  rw [List.isPrefixOf_iff_prefix, List.prefix_iff_eq_take, eq_comm]
  rfl

theorem classify_success_iff (t : Bytes) :
    classify t = .success ↔ t = strOk ∨ t.take 7 = strConnect := by
  rw [← strConnect_isPrefixOf_iff, classify]
  split_ifs with hok hfail hring
  · exact iff_of_true rfl hok
  all_goals exact iff_of_false nofun hok

/-- No failure string is `OK` or begins with `CONNECT`, so each reaches its row of the table of 44_at_decoder.md R337. -/
theorem classify_failure_iff (t : Bytes) :
    classify t = .failure ↔ t ∈ [strError, strBusy, strNoCarrier, strNoDialtone, strNoAnswer] := by
  constructor
  · rw [classify]
    split_ifs with hok hfail hring
    · nofun
    · exact fun _ => hfail
    all_goals nofun
  · have hclass : ∀ t ∈ [strError, strBusy, strNoCarrier, strNoDialtone, strNoAnswer], classify t = .failure := by decide
    exact hclass t

theorem classify_unsolicited_iff (t : Bytes) : classify t = .unsolicited ↔ t = strRing := by
  constructor
  · rw [classify]
    split_ifs with hok hfail hring
    · nofun
    · nofun
    · exact fun _ => hring
    · nofun
  · rintro rfl
    decide

/-- Settles O28: the rows of the table of R337, which no two share. -/
theorem atTerminalClasses : Obligations.AtTerminalClasses := by
  intro t
  refine ⟨classify_success_iff t, ?failure, classify_unsolicited_iff t⟩
  case failure =>
    rw [classify_failure_iff]
    simp only [List.mem_cons, List.not_mem_nil, or_false]
    rfl

/-! ### CRLF pairs -/

theorem not_crlfAt_of_length_le_one {bs : Bytes} (h : bs.length ≤ 1) (i : Nat) : ¬ CrlfAt bs i := by
  rintro ⟨-, hlf⟩
  rw [List.getElem?_eq_none (by omega)] at hlf
  cases hlf

theorem crlfAt_append {bs : Bytes} {i : Nat} (h : CrlfAt bs i) (cs : Bytes) : CrlfAt (bs ++ cs) i := by
  obtain ⟨hcr, hlf⟩ := h
  exact ⟨by rw [List.getElem?_append_left (List.getElem?_eq_some_iff.1 hcr).1, hcr],
    by rw [List.getElem?_append_left (List.getElem?_eq_some_iff.1 hlf).1, hlf]⟩

/-- A pair in a sequence ends before its last byte or is its last two. -/
theorem crlfAt_concat {bs : Bytes} {a b : Byte} {i : Nat} (h : CrlfAt (bs ++ [a, b]) i) :
    CrlfAt (bs ++ [a]) i ∨ (a = cr ∧ b = lf) := by
  obtain ⟨hcr, hlf⟩ := h
  have hfit : i + 1 < bs.length + 2 := by simpa using (List.getElem?_eq_some_iff.1 hlf).1
  rcases Nat.lt_or_ge i bs.length with hlt | hge
  · left
    rw [List.append_cons] at hcr hlf
    rw [List.getElem?_append_left (by simp; omega)] at hcr hlf
    exact ⟨hcr, hlf⟩
  · obtain rfl : i = bs.length := by omega
    exact Or.inr ⟨by simpa [cr] using hcr, by simpa [lf] using hlf⟩

/-- The index list of the decoder is the set of pairs in ascending order (44_at_decoder.md R333). -/
theorem crlfIndices_eq (bs : Bytes) (i : Nat) :
    crlfIndices i bs = ((List.range bs.length).filter fun k => CrlfAt bs k).map (i + ·) := by
  induction bs generalizing i with
  | nil => rfl
  | cons a bs ih =>
    have htail : ((List.range bs.length).map Nat.succ).filter (fun k => CrlfAt (a :: bs) k) =
        ((List.range bs.length).filter fun k => CrlfAt bs k).map Nat.succ := List.filter_map
    have hshift : (i + ·) ∘ Nat.succ = (i + 1 + ·) := funext fun k => by simp only [Function.comp_apply]; omega
    rw [List.length_cons, List.range_succ_eq_map, List.filter_cons, htail]
    cases bs with
    | nil => simp [crlfIndices]
    | cons b rest =>
      have hhead : CrlfAt (a :: b :: rest) 0 ↔ a = cr ∧ b = lf := by simp [CrlfAt, cr, lf]
      rw [crlfIndices, ih]
      simp only [decide_eq_true_eq, hhead]
      split_ifs <;> simp [hshift]

/-! ### The lines of a body (44_at_decoder.md R334) -/

theorem splitCrlf_ne_nil (cur bs : Bytes) : splitCrlf cur bs ≠ [] := by
  induction cur, bs using splitCrlf.induct with
  | case1 | case2 => nofun
  | case3 cur a b rest h ih => simp [splitCrlf, h]
  | case4 cur a b rest h ih => simpa [splitCrlf, h] using ih

/-- Cutting loses no byte but the pairs. -/
theorem intercalate_splitCrlf (cur bs : Bytes) :
    List.intercalate [cr, lf] (splitCrlf cur bs) = cur.reverse ++ bs := by
  induction cur, bs using splitCrlf.induct with
  | case1 cur => simp [splitCrlf]
  | case2 cur b => simp [splitCrlf]
  | case3 cur a b rest h ih =>
    obtain ⟨rfl, rfl⟩ := h
    rw [splitCrlf, if_pos ⟨rfl, rfl⟩, List.intercalate_cons_of_ne_nil (splitCrlf_ne_nil [] rest), ih]
    simp
  | case4 cur a b rest h ih =>
    rw [splitCrlf, if_neg h, ih]
    simp

/-- No line holds a pair: the line under way holds none, nor does it with the byte that may join it next. -/
theorem not_crlfAt_of_mem_splitCrlf {cur bs : Bytes} (hcur : ∀ i, ¬ CrlfAt (cur.reverse ++ bs.take 1) i) :
    ∀ l ∈ splitCrlf cur bs, ∀ i, ¬ CrlfAt l i := by
  induction cur, bs using splitCrlf.induct with
  | case1 cur => simpa [splitCrlf] using hcur
  | case2 cur b => simpa [splitCrlf] using hcur
  | case3 cur a b rest h ih =>
    rw [splitCrlf, if_pos h, List.forall_mem_cons]
    exact ⟨fun i hi => hcur i (crlfAt_append hi _), ih (not_crlfAt_of_length_le_one (by simp))⟩
  | case4 cur a b rest h ih =>
    rw [splitCrlf, if_neg h]
    refine ih fun i hi => ?_
    rw [List.reverse_cons, List.append_assoc] at hi
    rcases crlfAt_concat hi with hi | hab
    · exact hcur i hi
    · exact h hab

/-! ### The response decoder -/

/-- Without two pairs there is no body (44_at_decoder.md R336). -/
theorem atDecode_of_few_pairs {rx : Bytes} (h : (crlfIndices 0 rx).length < 2) : atDecode rx = none := by
  unfold atDecode
  split
  next hpairs => simp [hpairs] at h
  next => rfl

section
variable {rx : Bytes} {a c : Nat} {more : List Nat} (hpairs : crlfIndices 0 rx = a :: c :: more)
include hpairs

/-- A body without a non-empty line (44_at_decoder.md R338). -/
theorem atDecode_of_no_line (hlines : atLines (slice rx (a + 2) ((c :: more).getLastD 0)) = []) :
    atDecode rx = some (.unclassified, [], [], slice rx (a + 2) ((c :: more).getLastD 0)) := by
  simp only [atDecode, hpairs, hlines, List.getLast?_nil]

/-- The last non-empty line of a body is the terminal line (44_at_decoder.md R334, R335). -/
theorem atDecode_of_lines {info : List Bytes} {term : Bytes}
    (hlines : atLines (slice rx (a + 2) ((c :: more).getLastD 0)) = info ++ [term]) :
    atDecode rx = some (classify term, term, info, slice rx (a + 2) ((c :: more).getLastD 0)) := by
  simp only [atDecode, hpairs, hlines, List.getLast?_concat, List.dropLast_concat]

end

/-- The verdict of ATD.DEC in the form of the other decoders (41_framers.md R161). -/
def atVerdict (rx : Bytes) : Except DecErr (AtClass × Bytes × List Bytes × Bytes) :=
  (atDecode rx).elim (.error .length) .ok

theorem atVerdict_of_some {rx : Bytes} {d : AtClass × Bytes × List Bytes × Bytes} (h : atDecode rx = some d) :
    atVerdict rx = .ok d := by rw [atVerdict, h]; rfl

theorem atVerdict_of_none {rx : Bytes} (h : atDecode rx = none) : atVerdict rx = .error .length := by
  rw [atVerdict, h]; rfl

theorem exec_atdDec {s : State} {rx : Bytes} (h : s.rxBytes = some rx) :
    exec .atdDec s =
      .next (decodeTo s ((atVerdict rx).map fun (cls, term, info, body) => .reply (.at cls term info body))) := by
  refine (withRx_some h).trans ?_
  rw [atVerdict]
  cases atDecode rx <;> rfl

theorem decodeReply_at {s : State} (ack : Bool) (rx : Bytes) (h : s.params.proto = .at) :
    decodeReply ack rx s = (s, (atVerdict rx).map fun (cls, term, info, body) => .at cls term info body) := by
  simp only [decodeReply, h, atVerdict]
  cases atDecode rx <;> rfl

/-- Two different ends of the index list make it one of at least two pairs. -/
theorem exists_eq_cons_cons_of_ends {l : List Nat} {a b : Nat} (hfirst : l.head? = some a) (hlast : l.getLast? = some b)
    (hne : a ≠ b) : ∃ c more, l = a :: c :: more ∧ (c :: more).getLastD 0 = b := by
  match l with
  | [] => cases hfirst
  | [x] =>
    cases hfirst
    cases hlast
    exact absurd rfl hne
  | x :: c :: more =>
    cases hfirst
    exact ⟨c, more, rfl, by simpa [List.getLastD_eq_getLast?] using congrArg (Option.getD · 0) hlast⟩

/-- Settles O27: the decoder's index list is the set of pairs, and cutting the body at its pairs gives the lines. -/
theorem atdDecodeResponse : Obligations.AtdDecodeResponse := by
  intro s rx hrx pairs
  have hindices : crlfIndices 0 rx = pairs := by simp [crlfIndices_eq, pairs]
  refine ⟨?exchange, ?few, ?body⟩
  case exchange =>
    intro hproto
    exact decodesAs_of_decodeTo (decodeReply_at s.ebdAck rx hproto) (exec_atdDec hrx) rfl
  case few =>
    intro hfew
    have hdecode : atDecode rx = none := atDecode_of_few_pairs (by rwa [hindices])
    exact ⟨.none, by rw [exec_atdDec hrx, atVerdict_of_none hdecode]; rfl⟩
  case body =>
    intro a b hfirst hlast hne
    obtain ⟨c, more, hpairs, rfl⟩ := exists_eq_cons_cons_of_ends hfirst hlast hne
    rw [← hindices] at hpairs
    refine ⟨splitCrlf [] _, intercalate_splitCrlf [] _, splitCrlf_ne_nil [] _,
      not_crlfAt_of_mem_splitCrlf (not_crlfAt_of_length_le_one (by simp)), fun hlines => ?_, fun info term hlines => ?_⟩
    · rw [exec_atdDec hrx, atVerdict_of_some (atDecode_of_no_line hpairs hlines)]
      rfl
    · rw [exec_atdDec hrx, atVerdict_of_some (atDecode_of_lines hpairs hlines)]
      rfl

end Sys2Proof.Machine
end

section
/-! USSD text (44_at_decoder.md): the envelope by position, hexadecimal carriage, UCS2, GSM 7-bit unpacking by bit, and the
entries of the default table. -/

namespace Sys2Proof.Machine

/-! ### The envelope (44_at_decoder.md R351) -/

theorem envelopeAt_cons_succ (b : Byte) (rx : Bytes) (i : Nat) : EnvelopeAt (b :: rx) (i + 1) ↔ EnvelopeAt rx i := by
  have hslice : slice (b :: rx) (i + 1) (i + 1 + 10) = slice rx i (i + 10) := by simp [slice]
  rw [EnvelopeAt, hslice]

theorem envelopeAt_zero_iff (rx : Bytes) : EnvelopeAt rx 0 ↔ cusdOpening.isPrefixOf rx = true := by
  rw [List.isPrefixOf_iff_prefix, List.prefix_iff_eq_take, eq_comm]
  rfl

theorem not_envelopeAt_nil (i : Nat) : ¬ EnvelopeAt [] i := by
  simp [EnvelopeAt, slice]

theorem afterOpening_of_none {rx : Bytes} (h : ∀ i, ¬ EnvelopeAt rx i) : afterOpening rx = none := by
  induction rx with
  | nil => rfl
  | cons b rest ih =>
    rw [afterOpening, if_neg (mt (envelopeAt_zero_iff _).2 (h 0))]
    exact ih fun i hi => h (i + 1) ((envelopeAt_cons_succ b rest i).2 hi)

/-- Of several openings the first counts, and the text begins after it. -/
theorem afterOpening_of_first {rx : Bytes} {i : Nat} (hat : EnvelopeAt rx i) (hfirst : ∀ j, j < i → ¬ EnvelopeAt rx j) :
    afterOpening rx = some (rx.drop (i + 10)) := by
  induction rx generalizing i with
  | nil => exact absurd hat (not_envelopeAt_nil i)
  | cons b rest ih =>
    cases i with
    | zero =>
      rw [afterOpening, if_pos ((envelopeAt_zero_iff _).1 hat)]
      rfl
    | succ i =>
      rw [afterOpening, if_neg (mt (envelopeAt_zero_iff _).2 (hfirst 0 (by omega))),
        ih ((envelopeAt_cons_succ b rest i).1 hat) fun j hj hopen =>
          hfirst (j + 1) (by omega) ((envelopeAt_cons_succ b rest j).2 hopen), Nat.add_right_comm, List.drop_succ_cons]

theorem beforeQuote_of_none {bs : Bytes} (h : ∀ j : Nat, bs[j]? ≠ some quote) : beforeQuote bs = none := by
  induction bs with
  | nil => rfl
  | cons b rest ih =>
    have hb : b ≠ quote := fun hb => h 0 (by simp [hb])
    rw [beforeQuote, if_neg hb, ih fun j => h (j + 1)]
    rfl

theorem beforeQuote_of_first {bs : Bytes} {q : Nat} (hat : bs[q]? = some quote)
    (hfirst : ∀ j, j < q → bs[j]? ≠ some quote) : beforeQuote bs = some (bs.take q) := by
  induction bs generalizing q with
  | nil => simp at hat
  | cons b rest ih =>
    cases q with
    | zero =>
      rw [beforeQuote, if_pos (by simpa using hat)]
      rfl
    | succ q =>
      have hb : b ≠ quote := fun hb => hfirst 0 (by omega) (by simp [hb])
      rw [beforeQuote, if_neg hb, ih hat fun j hj => hfirst (j + 1) (by omega)]
      rfl

section
variable {rx : Bytes} {i : Nat}

theorem ussdRaw_of_no_opening (h : ∀ i, ¬ EnvelopeAt rx i) : ussdRaw rx = none := by
  rw [ussdRaw, afterOpening_of_none h]
  rfl

section
variable (hat : EnvelopeAt rx i) (hfirst : ∀ j, j < i → ¬ EnvelopeAt rx j)
include hat hfirst

theorem ussdRaw_of_not_closed (h : ∀ j, i + 10 ≤ j → rx[j]? ≠ some quote) : ussdRaw rx = none := by
  rw [ussdRaw, afterOpening_of_first hat hfirst, Option.bind_some]
  refine beforeQuote_of_none fun j => ?_
  rw [List.getElem?_drop]
  exact h (i + 10 + j) (by omega)

theorem ussdRaw_of_closed {q : Nat} (hq : i + 10 ≤ q) (hclosed : rx[q]? = some quote)
    (hopen : ∀ j, i + 10 ≤ j → j < q → rx[j]? ≠ some quote) : ussdRaw rx = some (slice rx (i + 10) q) := by
  rw [ussdRaw, afterOpening_of_first hat hfirst, Option.bind_some]
  refine beforeQuote_of_first ?_ fun j hj => ?_
  · rw [List.getElem?_drop, Nat.add_sub_cancel' hq, hclosed]
  · rw [List.getElem?_drop]
    exact hopen (i + 10 + j) (by omega) (by omega)

end

variable {s : State}

theorem exec_atdUssd_notFound (hrx : s.rxBytes = some rx) (h : ussdRaw rx = none) :
    exec .atdUssd s = .next (s.complete .notFound .none) := by
  refine (withRx_some hrx).trans ?_
  rw [h]
  rfl

theorem exec_atdUssd_found {raw : Bytes} (hrx : s.rxBytes = some rx) (h : ussdRaw rx = some raw) :
    exec .atdUssd s = .next (s.complete .ok (.ussd (ussdChain s.params raw).1 (ussdChain s.params raw).2)) := by
  refine (withRx_some hrx).trans ?_
  rw [h]
  rfl

end

/-- Settles O29: the search for the opening and the search for the quote after it each stop at the first. -/
theorem ussdEnvelope : Obligations.UssdEnvelope := by
  intro s rx hrx
  constructor
  · intro hnone
    exact ⟨.none, exec_atdUssd_notFound hrx (ussdRaw_of_no_opening hnone)⟩
  · intro i hat hfirst
    constructor
    · intro hopen
      exact ⟨.none, exec_atdUssd_notFound hrx (ussdRaw_of_not_closed hat hfirst hopen)⟩
    · intro q hq hclosed hopen
      exact exec_atdUssd_found hrx (ussdRaw_of_closed hat hfirst hq hclosed hopen)

/-! ### Functions that take a sequence two elements at a time -/

section
variable {α β : Type} {f : α → α → β} {g : List α → List β} (hpair : ∀ x y rest, g (x :: y :: rest) = f x y :: g rest)
include hpair

theorem length_of_pairs (hnil : g [] = []) : ∀ xs : List α, xs.length % 2 = 0 → 2 * (g xs).length = xs.length
  | [], _ => by simp [hnil]
  | [_], h => by simp at h
  | x :: y :: rest, h => by
    have ih := length_of_pairs hnil rest (by simp only [List.length_cons] at h; omega)
    simp only [hpair, List.length_cons]
    omega

theorem getElem?_of_pairs : ∀ {xs : List α} {k : Nat} {x y : α}, xs[2 * k]? = some x → xs[2 * k + 1]? = some y →
    (g xs)[k]? = some (f x y)
  | [], _, _, _, hx, _ => by simp at hx
  | [_], _, _, _, _, hy => by simp at hy
  | a :: b :: rest, 0, x, y, hx, hy => by
    obtain rfl : a = x := Option.some.inj hx
    obtain rfl : b = y := Option.some.inj hy
    rw [hpair, List.getElem?_cons_zero]
  | a :: b :: rest, k + 1, x, y, hx, hy => by
    rw [hpair, List.getElem?_cons_succ]
    exact getElem?_of_pairs hx hy

end

/-! ### Hexadecimal carriage and UCS2 (44_at_decoder.md R353, R360) -/

theorem hexVal_isSome_iff (b : Byte) : (hexVal b).isSome = true ↔
    (0x30 ≤ b.toNat ∧ b.toNat ≤ 0x39) ∨ (0x41 ≤ b.toNat ∧ b.toNat ≤ 0x46) ∨ (0x61 ≤ b.toNat ∧ b.toNat ≤ 0x66) := by
  unfold hexVal
  dsimp only
  split_ifs with hdigit hupper hlower <;> simp [*]

theorem hexVal_digit {b : Byte} (h : 0x30 ≤ b.toNat ∧ b.toNat ≤ 0x39) : hexVal b = some (b.toNat - 0x30) := if_pos h

theorem hexVal_upper {b : Byte} (h : 0x41 ≤ b.toNat ∧ b.toNat ≤ 0x46) : hexVal b = some (b.toNat - 0x41 + 10) := by
  unfold hexVal
  dsimp only
  rw [if_neg (by omega), if_pos h]
  congr 1
  omega

theorem hexVal_lower {b : Byte} (h : 0x61 ≤ b.toNat ∧ b.toNat ≤ 0x66) : hexVal b = some (b.toNat - 0x61 + 10) := by
  unfold hexVal
  dsimp only
  rw [if_neg (by omega), if_neg (by omega), if_pos h]
  congr 1
  omega

theorem hexOk_iff (raw : Bytes) : hexOk raw = true ↔
    raw ≠ [] ∧ raw.length % 2 = 0 ∧ ∀ b ∈ raw, (hexVal b).isSome = true := by
  simp only [hexOk, decide_eq_true_eq, List.all_eq_true]

/-- Text that is not hexadecimal is matched as plain text or not at all (44_at_decoder.md R353). -/
theorem ussdChain_stage_of_not_hexOk (p : Params) {raw : Bytes} (h : hexOk raw = false) :
    (ussdChain p raw).2 = .plain ∨ (ussdChain p raw).2 = .none := by
  unfold ussdChain
  split
  next => exact Or.inl rfl
  next => simp [h]

theorem append_eq_ofNat (hi lo : Byte) : (hi ++ lo : BitVec 16) = BitVec.ofNat 16 (256 * hi.toNat + lo.toNat) := by
  apply BitVec.eq_of_toNat_eq
  rw [BitVec.toNat_append, ← Nat.shiftLeft_add_eq_or_of_lt lo.isLt, Nat.shiftLeft_eq, BitVec.toNat_ofNat]
  omega

/-- Settles O32: `unhex` and `ucs2_decode` both take pairs, and a digit has its value by the range it is in. -/
theorem hexAndUcs2Decoding : Obligations.HexAndUcs2Decoding := by
  refine ⟨?hexOk, ?unhex, ?hexVal, ?chain, ?ucs2⟩
  case hexOk =>
    intro raw
    simp only [hexOk_iff, hexVal_isSome_iff]
  case unhex =>
    intro raw hok
    obtain ⟨-, heven, -⟩ := (hexOk_iff raw).1 hok
    exact ⟨length_of_pairs (g := unhex) (fun _ _ _ => rfl) rfl raw heven,
      fun k x y hx hy => getElem?_of_pairs (g := unhex) (fun _ _ _ => rfl) hx hy⟩
  case hexVal => exact fun b => ⟨hexVal_digit, hexVal_upper, hexVal_lower⟩
  case chain =>
    intro p raw hnot
    rcases ussdChain_stage_of_not_hexOk p hnot with hstage | hstage <;> simp [hstage]
  case ucs2 =>
    intro o heven
    refine ⟨length_of_pairs (g := ucs2Decode) (fun _ _ _ => rfl) rfl o heven, fun k hi lo hhi hlo => ?_⟩
    rw [← append_eq_ofNat]
    exact getElem?_of_pairs (g := ucs2Decode) (fun _ _ _ => rfl) hhi hlo

/-! ### GSM 7-bit unpacking (44_at_decoder.md R355 to R357) -/

/-- String bit `8i + j` is bit `j` of octet `i` (44_at_decoder.md R356). -/
theorem testBit_bitString (o : Bytes) (n : Nat) : (bitString o).testBit n = (o.getD (n / 8) 0).getLsbD (n % 8) := by
  induction o generalizing n with
  | nil => simp [bitString]
  | cons b rest ih =>
    have hbits : bitString (b :: rest) = 2 ^ 8 * bitString rest + b.toNat := Nat.add_comm _ _
    rw [hbits, Nat.testBit_two_pow_mul_add _ b.isLt]
    split_ifs with hn
    · rw [Nat.div_eq_of_lt hn, Nat.mod_eq_of_lt hn]
      rfl
    · rw [ih, show n / 8 = (n - 8) / 8 + 1 by omega, show n % 8 = (n - 8) % 8 by omega]
      rfl

theorem septet_lt (bits k : Nat) : septet bits k < 128 := Nat.mod_lt _ (by decide)

theorem testBit_septet (bits k : Nat) {j : Nat} (h : j < 7) : (septet bits k).testBit j = bits.testBit (7 * k + j) := by
  have hmod : septet bits k = bits / 2 ^ (7 * k) % 2 ^ 7 := rfl
  rw [hmod, Nat.testBit_mod_two_pow, Nat.testBit_div_two_pow, decide_eq_true h, Bool.true_and, Nat.add_comm]

theorem gsm7Septets_length (o : Bytes) : (gsm7Septets o).length = 8 * o.length / 7 := by
  simp [gsm7Septets]

theorem eq_septet_of_gsm7Septets {o : Bytes} {k v : Nat} (h : (gsm7Septets o)[k]? = some v) :
    septet (bitString o) k = v := by
  rw [gsm7Septets, List.getElem?_map, Option.map_eq_some_iff] at h
  obtain ⟨i, hi, rfl⟩ := h
  obtain ⟨hfit, rfl⟩ := List.getElem?_eq_some_iff.1 hi
  rw [List.getElem_range]

theorem gsm7Char_eq (p : Params) {v : Nat} (h : v < 128) : p.gsm7Table[v]? = some (gsm7Char p v) := by
  simp only [gsm7Char, Nat.mod_eq_of_lt h]
  exact Vector.getElem?_eq_getElem h

/-- The septets whose code point is their own value (44_at_decoder.md R357). -/
theorem gsm7Default_ascii : ∀ v < 0x7B, (0x20 ≤ v ∧ v ≤ 0x3F ∧ v ≠ 0x24) ∨ (0x41 ≤ v ∧ v ≤ 0x5A) ∨ (0x61 ≤ v ∧ v ≤ 0x7A) →
    Config.gsm7Default[v]? = some (BitVec.ofNat 16 v) := by
  decide

/-- Settles O31: a septet's bits are bits of the bit string, and these are bits of the octets. -/
theorem gsm7Unpacking : Obligations.Gsm7Unpacking := by
  refine ⟨fun p o => ⟨gsm7Septets_length o, ?length, fun k v hv => ?septet⟩, rfl, fun v hv => ?ascii, by decide⟩
  case length => rw [gsm7Decode, List.length_map, gsm7Septets_length]
  case septet =>
    obtain rfl := eq_septet_of_gsm7Septets hv
    refine ⟨septet_lt _ _, ?_, fun j hj => ?_⟩
    · rw [gsm7Decode, List.getElem?_map, hv, gsm7Char_eq p (septet_lt _ _)]
      rfl
    · rw [testBit_septet _ _ hj, testBit_bitString]
  case ascii => exact gsm7Default_ascii v (by omega) hv

end Sys2Proof.Machine
end

section
/-! Reset (70_reset_and_hazards.md R420, R421): SYS.RESET takes the registers back to what power-on gives them, so the table
of R421 is read off once, from the state at power-on. -/

namespace Sys2Proof.Machine

/-- Settles O9: the state at power-on is a closed term, and each conjunct is a field of it. -/
theorem powerOnRegisters : Obligations.PowerOnRegisters := by
  unfold Obligations.PowerOnRegisters
  decide

/-- The state after a reset of the registers is the one at power-on, but for the parameters, the CRC register that starts
at one of them, and what is no register of the block (70_reset_and_hazards.md R421, R422). -/
theorem resetRegisters_eq_powerOn (s : State) : s.resetRegisters = { State.reset with
    crc := s.params.crcInit, params := s.params, serialTx := s.serialTx, serialRx := s.serialRx
    result := s.result, trace := s.trace, pending := s.pending, openScript := s.openScript
    writeScript := s.writeScript, readScript := s.readScript, portCalls := s.portCalls } := rfl

/-- Closing the port if it is open empties the RX stream if it is open, and is no other change once the registers, PORT_OPEN
among them, are reset (20_memory.md R68; 70_reset_and_hazards.md R420). -/
theorem resetRegisters_closeIfOpen (s : State) : (if s.portOpen then s.closePort else s).resetRegisters =
    { s.resetRegisters with serialRx := if s.portOpen then [] else s.serialRx } := by
  split <;> rfl

theorem exec_sysReset (s : State) : exec .sysReset s =
    .next ({ s.resetRegisters with serialRx := if s.portOpen then [] else s.serialRx }.complete .ok .none) := by
  rw [← resetRegisters_closeIfOpen]
  rfl

/-- Settles O10: the registers are those of O9, and the port was closed if it was open. -/
theorem sysResetResult : Obligations.SysResetResult := by
  intro s
  refine ⟨_, exec_sysReset s, ?_⟩
  have hregs := powerOnRegisters
  unfold Obligations.PowerOnRegisters at hregs
  simp [resetRegisters_eq_powerOn, hregs, Status.code]

end Sys2Proof.Machine
end

section
/-! Requests and their encodings (30_encoding.md R110; logs 1, 2, 28): an operation is read back from its encoding, and what
is accepted begins with the encoding of what it was read as. -/

namespace Sys2Proof

namespace Decode

/-- The parse of an operand that succeeds hands its value and the bytes after it to the rest of the request. -/
theorem bind_of_ok {α β : Type} {x : Except DecodeError α} {a : α} (f : α → Except DecodeError β) (h : x = .ok a) :
    (x >>= f) = f a := by
  rw [h]
  rfl

/-! ### Decoding an encoding -/

/-- Every operation is read back from its encoding: each operand from its packing, in the order of the table. -/
theorem request_encode (p : Params) (i : Instr) (tail : Bytes) (hwf : WellFormed i) (hop : isWire i = false) :
    request (encode p i ++ tail) = .ok (i, tail) := by
  cases i with
  | wireCctalk | wireCcnet | wireEbds | wireWatchdog | wireAt => cases hop
  | frmLoad bytes => exact (bind_of_ok _ (takeSeq_packSeq bytes tail hwf) :)
  | frmCctEnc dest src cmd payload => exact (bind_of_ok _ (takeSeq_packSeq payload tail hwf) :)
  | frmCcnEnc addr cmd payload => exact (bind_of_ok _ (takeSeq_packSeq payload tail hwf) :)
  | frmEbdEnc cmd payload => exact (bind_of_ok _ (takeSeq_packSeq payload tail hwf) :)
  | frmEbdDec expectAck => exact (bind_of_ok _ (takeBit_packBit expectAck tail) :)
  | sesExchange cmd payload =>
    obtain ⟨hcmd, hpayload⟩ := hwf
    change request (0x34 :: (packSeq cmd ++ packSeq payload) ++ tail) = _
    rw [List.cons_append, List.append_assoc]
    refine (bind_of_ok _ (takeSeq_packSeq cmd _ hcmd)).trans ?_
    exact (bind_of_ok _ (takeSeq_packSeq payload tail hpayload) :)
  | sesCycle now => exact (bind_of_ok _ (takeWord_packWord now tail) :)
  | escCfg maxSum rej =>
    change request (0x40 :: (packWord maxSum ++ packBit rej) ++ tail) = _
    rw [List.cons_append, List.append_assoc]
    refine (bind_of_ok _ (takeWord_packWord maxSum _)).trans ?_
    exact (bind_of_ok _ (takeBit_packBit rej tail) :)
  | escDberr flag => exact (bind_of_ok _ (takeBit_packBit flag tail) :)
  | escPoll st now =>
    change request (0x42 :: (packPollState st ++ packWord now) ++ tail) = _
    rw [List.cons_append, List.append_assoc]
    refine (bind_of_ok _ (takePollState_pack st _)).trans ?_
    exact (bind_of_ok _ (takeWord_packWord now tail) :)
  | atdEnc text term =>
    change request (0x50 :: (packSeq text ++ packBit term) ++ tail) = _
    rw [List.cons_append, List.append_assoc]
    refine (bind_of_ok _ (takeSeq_packSeq text _ hwf)).trans ?_
    exact (bind_of_ok _ (takeBitOrZero_packBit term tail) :)
  | _ => rfl

/-- ATD.ENC without its last byte, which is the bit `term`. -/
theorem encode_atdEnc_dropLast (p : Params) (text : Bytes) (term : Bool) :
    (encode p (.atdEnc text term)).dropLast = 0x50 :: packSeq text := by
  change (0x50 :: packSeq text ++ [if term then 1 else 0]).dropLast = _
  exact List.dropLast_concat

/-- `term` left out is `term` 0 (44_at_decoder.md R332). -/
theorem request_atdEnc_default {text : Bytes} (h : text.length ≤ maxSeq) :
    request (0x50 :: packSeq text) = .ok (.atdEnc text false, []) := by
  have hseq := takeSeq_packSeq text [] h
  rw [List.append_nil] at hseq
  exact (bind_of_ok _ hseq :)

/-! ### Encoding what was decoded -/

/-- A parse of operands after an op-select code that accepts only the encoding of what it reads. -/
def ReadsEncoding (op : Byte) (r : Bytes) (parsed : Except DecodeError (Instr × Bytes)) : Prop :=
  ∀ i tail, parsed = .ok (i, tail) → WellFormed i ∧ isWire i = false ∧ ∀ p : Params, op :: r = encode p i ++ tail

/-- The encoding of ATD.ENC with its last operand, the bit `term` 0, left out. -/
abbrev OmitsTerm (bs tail : Bytes) (i : Instr) : Prop :=
  ∃ text, i = .atdEnc text false ∧ tail = [] ∧ ∀ p : Params, bs ++ [0x00] = encode p i

/-- ATD.ENC, whose bit `term` may be left out. -/
theorem atdEnc_readsEncoding {r tail : Bytes} {i : Instr} (h : operands 0x50 r = .ok (i, tail)) :
    WellFormed i ∧ isWire i = false ∧
      ((∀ p : Params, 0x50 :: r = encode p i ++ tail) ∨ OmitsTerm (0x50 :: r) tail i) := by
  obtain ⟨⟨text, r'⟩, htext, h⟩ := bind_ok h
  obtain ⟨⟨term, rest⟩, hterm, h⟩ := bind_ok h
  cases h
  obtain ⟨rfl, hlen⟩ := takeSeq_ok htext
  refine ⟨hlen, rfl, ?_⟩
  rcases takeBitOrZero_ok hterm with rfl | ⟨rfl, rfl, rfl⟩
  · exact Or.inl fun p => by simp [encode]
  · exact Or.inr ⟨text, rfl, rfl, fun p => by simp [encode, packBit]⟩

/-- Every other op-select code: each operand was taken from its packing. -/
theorem operands_readsEncoding (op : Byte) (r : Bytes) (hop : op ≠ 0x50) : ReadsEncoding op r (operands op r) := by
  intro i tail h
  unfold operands at h
  split at h <;> rename_i hcode
  case h_31 => exact absurd (BitVec.eq_of_toNat_eq hcode) hop
  case h_34 => cases h -- an undefined code
  all_goals
    have hbyte : BitVec.ofNat 8 op.toNat = op := by simp
    rw [hcode] at hbyte
    subst hbyte
  case h_3 | h_6 | h_9 | h_13 | h_15 | h_18 => -- CHK.S8.UPD, CHK.C16.UPD, CHK.X8.UPD, FRM.CCT.DEC, FRM.CCN.DEC, FRM.WDG.ENC
    obtain ⟨⟨b, r'⟩, hb, h⟩ := bind_ok h
    cases h
    rw [takeByte_ok hb]
    exact ⟨trivial, rfl, fun p => rfl⟩
  case h_11 => -- FRM.LOAD
    obtain ⟨⟨bytes, r'⟩, hbytes, h⟩ := bind_ok h
    cases h
    obtain ⟨rfl, hlen⟩ := takeSeq_ok hbytes
    exact ⟨hlen, rfl, fun p => rfl⟩
  case h_12 => -- FRM.CCT.ENC
    obtain ⟨⟨dest, r1⟩, hdest, h⟩ := bind_ok h
    obtain ⟨⟨src, r2⟩, hsrc, h⟩ := bind_ok h
    obtain ⟨⟨cmd, r3⟩, hcmd, h⟩ := bind_ok h
    obtain ⟨⟨payload, r4⟩, hpayload, h⟩ := bind_ok h
    cases h
    obtain ⟨rfl, hlen⟩ := takeSeq_ok hpayload
    rw [takeByte_ok hdest, takeByte_ok hsrc, takeByte_ok hcmd]
    exact ⟨hlen, rfl, fun p => rfl⟩
  case h_14 => -- FRM.CCN.ENC
    obtain ⟨⟨addr, r1⟩, haddr, h⟩ := bind_ok h
    obtain ⟨⟨cmd, r2⟩, hcmd, h⟩ := bind_ok h
    obtain ⟨⟨payload, r3⟩, hpayload, h⟩ := bind_ok h
    cases h
    obtain ⟨rfl, hlen⟩ := takeSeq_ok hpayload
    rw [takeByte_ok haddr, takeByte_ok hcmd]
    exact ⟨hlen, rfl, fun p => rfl⟩
  case h_16 => -- FRM.EBD.ENC
    obtain ⟨⟨cmd, r1⟩, hcmd, h⟩ := bind_ok h
    obtain ⟨⟨payload, r2⟩, hpayload, h⟩ := bind_ok h
    cases h
    obtain ⟨rfl, hlen⟩ := takeSeq_ok hpayload
    rw [takeByte_ok hcmd]
    exact ⟨hlen, rfl, fun p => rfl⟩
  case h_17 | h_29 => -- FRM.EBD.DEC, ESC.DBERR
    obtain ⟨⟨b, r'⟩, hb, h⟩ := bind_ok h
    cases h
    rw [takeBit_ok hb]
    exact ⟨trivial, rfl, fun p => rfl⟩
  case h_25 => -- SES.EXCHANGE
    obtain ⟨⟨cmd, r1⟩, hcmd, h⟩ := bind_ok h
    obtain ⟨⟨payload, r2⟩, hpayload, h⟩ := bind_ok h
    cases h
    obtain ⟨rfl, hcmdLen⟩ := takeSeq_ok hcmd
    obtain ⟨rfl, hpayloadLen⟩ := takeSeq_ok hpayload
    exact ⟨⟨hcmdLen, hpayloadLen⟩, rfl, fun p => by simp [encode]⟩
  case h_27 => -- SES.CYCLE
    obtain ⟨⟨now, r'⟩, hnow, h⟩ := bind_ok h
    cases h
    rw [takeWord_ok hnow]
    exact ⟨trivial, rfl, fun p => rfl⟩
  case h_28 => -- ESC.CFG
    obtain ⟨⟨maxSum, r1⟩, hmax, h⟩ := bind_ok h
    obtain ⟨⟨rej, r2⟩, hrej, h⟩ := bind_ok h
    cases h
    rw [takeWord_ok hmax, takeBit_ok hrej]
    exact ⟨trivial, rfl, fun p => by simp [encode]⟩
  case h_30 => -- ESC.POLL
    obtain ⟨⟨st, r1⟩, hst, h⟩ := bind_ok h
    obtain ⟨⟨now, r2⟩, hnow, h⟩ := bind_ok h
    cases h
    rw [takePollState_ok hst, takeWord_ok hnow]
    exact ⟨trivial, rfl, fun p => by simp [encode]⟩
  all_goals -- the operations without operands
    cases h
    exact ⟨trivial, rfl, fun p => rfl⟩

end Decode

/-- Settles O5: each operand is read back from its packing, and `term` has its default. -/
theorem requestDecodesItsEncoding : Obligations.RequestDecodesItsEncoding := by
  refine ⟨Decode.request_encode, fun p text hwf => ?_⟩
  rw [Decode.encode_atdEnc_dropLast]
  exact Decode.request_atdEnc_default hwf

/-- Settles O6: of the op-select codes only that of ATD.ENC has an operand that may be left out. -/
theorem acceptedRequestIsItsEncoding : Obligations.AcceptedRequestIsItsEncoding := by
  intro bs tail i h
  cases bs with
  | nil => cases h
  | cons op r =>
    by_cases hop : op = 0x50
    · subst hop
      exact Decode.atdEnc_readsEncoding h
    · obtain ⟨hwf, hwire, henc⟩ := Decode.operands_readsEncoding op r hop i tail h
      exact ⟨hwf, hwire, Or.inl henc⟩

end Sys2Proof
end

section
/-! Frames on the line (30_encoding.md R90 to R107): a frame of the parameters' family is read back from its bytes, and only
its bytes are recognised as it. -/

namespace Sys2Proof

namespace Decode

open Machine

/-! ### Reading a frame from its bytes -/

theorem wholeCctalk_frame (dest src cmd : Byte) {payload : Bytes} (h : payload.length ≤ 255) :
    wholeCctalk (cctFrame dest src cmd payload) = some (.wireCctalk dest src cmd payload) := by
  have hcons : cctFrame dest src cmd payload = dest :: (cctFrame dest src cmd payload).tail := rfl
  rw [hcons]
  simp only [wholeCctalk]
  rw [← hcons, cctDecode_frame dest src cmd payload h]

theorem wholeCcnet_frame (p : Params) (addr cmd : Byte) {payload : Bytes} (h : payload.length ≤ 249) :
    wholeCcnet p (ccnFrame p addr cmd payload) = some (.wireCcnet addr cmd payload) := by
  have hcandidate := ccnCandidate_frame p addr cmd payload [] h
  rw [List.append_nil] at hcandidate
  have hlen : (BitVec.ofNat 8 (payload.length + 6)).toNat = (ccnFrame p addr cmd payload).length := by
    rw [ccnFrame_length, BitVec.toNat_ofNat, Nat.mod_eq_of_lt (by omega)]
  refine (if_pos hlen).trans ?_
  rw [hcandidate]

theorem wholeEbds_frame (p : Params) (ctl : Byte) {data : Bytes} (h : data.length ≤ 250) :
    wholeEbds p (ebdFrame p ctl data) = some (.wireEbds ctl data) := by
  simp only [wholeEbds, ebdParse_frame p ctl data h]

theorem wholeWatchdog_frame (cmd : Byte) : wholeWatchdog (wdgFrame cmd) = some (.wireWatchdog cmd) := by
  simp only [wholeWatchdog, wdgDecode_frame]

theorem wholeAt_concat (text : Bytes) (t : Byte) : wholeAt (text ++ [t]) =
    if t = cr ∧ atTextOk text false then some (.wireAt text false)
    else if t = ctrlZ ∧ atTextOk text true then some (.wireAt text true)
    else none := by
  simp only [wholeAt, List.getLast?_concat, List.dropLast_concat]

theorem wholeAt_frame {text : Bytes} {term : Bool} (h : atTextOk text term = true) :
    wholeAt (atFrame text term) = some (.wireAt text term) := by
  rw [atFrame, wholeAt_concat]
  cases term with
  | false => exact if_pos ⟨rfl, h⟩
  | true =>
    rw [if_neg fun hcr => absurd hcr.1 (by decide)]
    exact if_pos ⟨rfl, h⟩

/-! ### What recognised bytes are -/

theorem wholeCctalk_some {bs : Bytes} {i : Instr} (h : wholeCctalk bs = some i) :
    ∃ dest src cmd payload, i = .wireCctalk dest src cmd payload ∧ bs = cctFrame dest src cmd payload ∧
      payload.length ≤ 255 := by
  unfold wholeCctalk at h
  split at h
  · cases h
  next dest rest =>
    split at h
    next src cmd payload hdecode =>
      cases h
      exact ⟨dest, src, cmd, payload, rfl, cctDecode_ok hdecode⟩
    next => cases h

/-- The length byte counts the whole buffer, so nothing follows the candidate at its head. -/
theorem wholeCcnet_some {p : Params} {bs : Bytes} {i : Instr} (h : wholeCcnet p bs = some i) :
    ∃ addr cmd payload, i = .wireCcnet addr cmd payload ∧ bs = ccnFrame p addr cmd payload ∧ payload.length ≤ 249 := by
  unfold wholeCcnet at h
  split at h
  next sync a len rest =>
    split at h
    next hlen =>
      split at h
      next addr cmd payload hvalid =>
        cases h
        obtain ⟨more, hbytes, hmax⟩ := ccnCandidate_valid hvalid
        have hbyte : len = BitVec.ofNat 8 (payload.length + 6) := by
          have hhead := congrArg (·.getD 2 0) hbytes
          exact hhead
        have htotal := congrArg List.length hbytes
        rw [List.length_append, ccnFrame_length, ← hlen, hbyte, BitVec.toNat_ofNat,
          Nat.mod_eq_of_lt (by omega)] at htotal
        obtain rfl : more = [] := List.eq_nil_of_length_eq_zero (by omega)
        exact ⟨addr, cmd, payload, rfl, by rw [hbytes, List.append_nil], hmax⟩
      all_goals cases h
    next => cases h
  next => cases h

theorem wholeEbds_some {p : Params} {bs : Bytes} {i : Instr} (h : wholeEbds p bs = some i) :
    ∃ ctl data, i = .wireEbds ctl data ∧ bs = ebdFrame p ctl data ∧ data.length ≤ 250 := by
  unfold wholeEbds at h
  split at h
  next ctl data hparse =>
    cases h
    exact ⟨ctl, data, rfl, ebdParse_ok hparse⟩
  next => cases h

theorem wholeWatchdog_some {bs : Bytes} {i : Instr} (h : wholeWatchdog bs = some i) :
    ∃ cmd, i = .wireWatchdog cmd ∧ bs = wdgFrame cmd := by
  unfold wholeWatchdog at h
  split at h
  next cmd hdecode =>
    cases h
    exact ⟨cmd, rfl, wdgDecode_ok hdecode⟩
  next => cases h

theorem wholeAt_some {bs : Bytes} {i : Instr} (h : wholeAt bs = some i) :
    ∃ text term, i = .wireAt text term ∧ bs = atFrame text term ∧ atTextOk text term = true := by
  rcases List.eq_nil_or_concat bs with rfl | ⟨text, t, rfl⟩
  · cases h
  · rw [List.concat_eq_append, wholeAt_concat] at h
    split_ifs at h with hcr hctrlZ
    · cases h
      exact ⟨text, false, rfl, by rw [List.concat_eq_append, hcr.1]; rfl, hcr.2⟩
    · cases h
      exact ⟨text, true, rfl, by rw [List.concat_eq_append, hctrlZ.1]; rfl, hctrlZ.2⟩

end Decode

/-- Settles O7: in each family the reader of whole frames undoes the frame's layout. -/
theorem lineFrameDecodesItsEncoding : Obligations.LineFrameDecodesItsEncoding := by
  intro p i hwf hproto
  unfold Decode.wire
  cases i with
  | wireCctalk dest src cmd payload =>
    rw [← Option.some.inj hproto]
    exact Decode.wholeCctalk_frame dest src cmd hwf
  | wireCcnet addr cmd payload =>
    rw [← Option.some.inj hproto]
    exact Decode.wholeCcnet_frame p addr cmd hwf
  | wireEbds ctl data =>
    rw [← Option.some.inj hproto]
    exact Decode.wholeEbds_frame p ctl hwf
  | wireWatchdog cmd =>
    rw [← Option.some.inj hproto]
    exact Decode.wholeWatchdog_frame cmd
  | wireAt text term =>
    rw [← Option.some.inj hproto]
    exact Decode.wholeAt_frame hwf
  | _ => cases hproto

/-- Settles O8: each reader of whole frames accepts the frame of the fields it returns, and no other bytes. -/
theorem recognisedFrameIsItsEncoding : Obligations.RecognisedFrameIsItsEncoding := by
  intro p bs i h
  unfold Decode.wire at h
  split at h <;> rename_i hproto <;> rw [hproto]
  case h_1 =>
    obtain ⟨dest, src, cmd, payload, rfl, rfl, hlen⟩ := Decode.wholeCctalk_some h
    exact ⟨hlen, rfl, rfl⟩
  case h_2 =>
    obtain ⟨addr, cmd, payload, rfl, rfl, hlen⟩ := Decode.wholeCcnet_some h
    exact ⟨hlen, rfl, rfl⟩
  case h_3 =>
    obtain ⟨ctl, data, rfl, rfl, hlen⟩ := Decode.wholeEbds_some h
    exact ⟨hlen, rfl, rfl⟩
  case h_4 =>
    obtain ⟨cmd, rfl, rfl⟩ := Decode.wholeWatchdog_some h
    exact ⟨trivial, rfl, rfl⟩
  case h_5 =>
    obtain ⟨text, term, rfl, rfl, hok⟩ := Decode.wholeAt_some h
    exact ⟨hok, rfl, rfl⟩

/-- Settles O4: the sample words are closed terms that the decoder evaluates. -/
theorem sampleWordsDecode : Obligations.SampleWordsDecode :=
  ⟨rfl, rfl, rfl, rfl, rfl, rfl, rfl, by decide, by decide⟩

/-! ### The step -/

namespace Machine

theorem step_of_fetch_run {s s' : State} {i : Instr} (h : fetch s = .run i s') : step s = exec i s' := by
  simp only [step, h]

theorem step_of_fetch_malformed {s : State} {e : DecodeError} (h : fetch s = .malformed e) :
    step s = .refused (.malformedRequest e) := by
  simp only [step, h]

theorem fetch_line {s : State} {bs : Bytes} {rest : List Input} (h : s.pending = .line bs :: rest) :
    fetch s = fetchLine bs { s with pending := rest } := by
  simp only [fetch, h]

theorem fetch_takeEvent {s : State} {rest : List Input} (h : s.pending = .takeEvent :: rest) :
    fetch s = .settled { s with pending := rest }.takeEvent := by
  simp only [fetch, h]

theorem fetch_idle {s : State} (h : s.pending = []) : fetch s = .settled s := by
  simp only [fetch, h]

/-- Bytes from the device, whole (20_memory.md R67, R69). -/
theorem deliver_eq (s : State) (bs : Bytes) :
    s.deliver bs = { s with serialRx := if s.portOpen then s.serialRx ++ bs else s.serialRx } := by
  unfold State.deliver
  split <;> rfl

/-- Settles O1: the fetch of a request that decodes runs the instruction. -/
theorem stepRunsDecodedRequest : Obligations.StepRunsDecodedRequest := by
  intro s bs tail rest i hpending hdecode
  refine step_of_fetch_run ((fetch_request hpending).trans ?_)
  simp only [fetchRequest, hdecode]

/-- Settles O2: one fetch per kind of input. -/
theorem stepTakesOtherInputs : Obligations.StepTakesOtherInputs := by
  refine ⟨?frame, ?bytes, ?event, fun s hidle => step_of_fetch_settled (fetch_idle hidle)⟩
  case frame =>
    intro s bs rest i hpending hwire
    refine step_of_fetch_run ((fetch_line hpending).trans ?_)
    simp only [fetchLine, hwire]
  case bytes =>
    intro s bs rest hpending hwire
    have hfetch : fetch s = .settled ({ s with pending := rest }.deliver bs) := by
      rw [fetch_line hpending]
      simp only [fetchLine, hwire]
    rw [step_of_fetch_settled hfetch, deliver_eq]
  case event => exact fun s rest hpending => step_of_fetch_settled (fetch_takeEvent hpending)

/-- Settles O60: a frame on the line is the delivery of its bytes, in the layout of its format. -/
theorem wireFramesJoinTheStream : Obligations.WireFramesJoinTheStream := by
  intro s dest src cmd ctl bs term arrive c e
  have harrive : ∀ frame, (.next (s.deliver frame) : Host.Outcome State Fault Refusal) = .next (arrive frame) :=
    fun frame => congrArg Host.Outcome.next (deliver_eq s frame)
  refine ⟨harrive _, harrive _, ?ebds, harrive _, harrive _⟩
  case ebds => exact (harrive _).trans (congrArg (Host.Outcome.next ∘ arrive) (ebdFrame_eq s.params ctl bs))

end Machine

end Sys2Proof
end

section
/-! The exchange, whole: what one transmission leaves for any answer of the port, the exchange that is answered, times out or
is refused until its bound, and what no exchange writes (42_exchange_retry.md R230 to R239). -/

namespace Sys2Proof.Machine

/-! ### One transmission, whole -/

/-- What `trace` forwards of byte sequences: all of them while polling, none otherwise (20_memory.md R79). -/
def tracedIn (s : State) (entries : List (Direction × Bytes)) : List (Direction × Bytes) :=
  if s.sesState = .polling then entries else []

theorem traced_eq (s : State) (d : Direction) (bs : Bytes) :
    s.traced d bs = { s with trace := s.trace ++ tracedIn s [(d, bs)] } := by
  unfold State.traced tracedIn
  split <;> simp

/-- The bytes that arrive during the read of the next transmission, which follows its write. -/
def nextArrivals (s : State) : Bytes := { s with portCalls := s.portCalls + 1 }.arrivals s.params.readTimeoutMs

theorem replyBytes_eq (s : State) : replyBytes s = (s.serialRx ++ nextArrivals s).take s.params.rxCap := rfl

/-- The state after a frame was written and a read returned (42_exchange_retry.md R230 steps 2 and 3). -/
def received (f : Bytes) (s : State) : State :=
  { s with
    rtyState := .decode, serialTx := s.serialTx ++ f, serialRx := (s.serialRx ++ nextArrivals s).drop s.params.rxCap
    rxbuf := Memory.store (replyBytes s), rxLen := (replyBytes s).length
    trace := s.trace ++ tracedIn s [(.tx, f), (.rx, replyBytes s)]
    writeScript := s.writeScript.tail, readScript := s.readScript.tail, portCalls := s.portCalls + 2 }

theorem afterWrite_ok {f : Bytes} {s : State} (h : s.writeAnswer = true) :
    afterWrite f s = { s with
      trace := s.trace ++ tracedIn s [(.tx, f)], writeScript := s.writeScript.tail, portCalls := s.portCalls + 1
      serialTx := s.serialTx ++ f } := by
  have hanswer : (s.traced .tx f).writeAnswer = true := by rw [traced_eq]; exact h
  rw [afterWrite, writePort_eq, hanswer, traced_eq]
  rfl

theorem afterRead_afterWrite {f : Bytes} {s : State} (h : s.writeAnswer = true) :
    { afterRead { afterWrite f s with rtyState := .read } with rtyState := .decode } = received f s := by
  rw [afterWrite_ok h, afterRead, traced_eq]
  unfold received
  by_cases hpolling : s.sesState = .polling
  · simp only [tracedIn, hpolling, if_true, State.readPort, State.putRx, List.append_assoc]
    rfl
  · simp only [tracedIn, hpolling, if_false, State.readPort, State.putRx, List.append_nil]
    rfl

/-- One transmission, whatever the port answers (42_exchange_retry.md R230, the body of the loop). -/
theorem attempt_eq (f : Bytes) (ack : Bool) (s : State) : attempt f ack s =
    if s.writeAnswer then
      if replyBytes s = [] then .ended (received f s).finishExchange (.failed .timeout)
      else decodePhase ack (replyBytes s) (received f s)
    else .ended (afterWrite f s).teardown.finishExchange (.failed .portError) := by
  cases hw : s.writeAnswer with
  | false =>
    rw [if_neg Bool.false_ne_true]
    exact attempt_of_writeFailed ack hw
  | true =>
    have hread : readBytes { afterWrite f s with rtyState := .read } = replyBytes s := by
      rw [afterWrite_ok hw]
      rfl
    rw [if_pos rfl, ← afterRead_afterWrite hw]
    simp only [attempt, writePhase_eq, hw, if_true, readPhase_eq, hread]
    by_cases hempty : replyBytes s = []
    · simp only [if_pos hempty]
      rfl
    · simp only [if_neg hempty]

/-! ### The exchange that ends with its first transmission -/

theorem nextArrivals_of_script {s : State} {arr : Bytes} {rs : List Bytes} (h : s.readScript = arr :: rs) :
    nextArrivals s = arr := by
  simp only [nextArrivals, State.arrivals, h]

theorem decodePhase_of_answer {ack : Bool} {rx : Bytes} {s : State} {r : Reply}
    (hdecode : verdict s.params ack rx = .ok r) (hnak : nakBusy s.params r = false) :
    decodePhase ack rx s = .ended (decoded ack rx s).finishExchange (.answer r) := by
  rw [decodePhase_eq, hdecode]
  simp only [classifyReply]
  exact if_neg (Bool.eq_false_iff.1 hnak)

section
variable {cmd payload f : Bytes} {s : State} (hm : s.mayExchange = true)
  (hf : encodeExchange s.params s.ebdAck cmd payload = some f) (hw : s.writeAnswer = true)
include hm hf hw

/-- An exchange that is answered on its first transmission (42_exchange_retry.md R230). -/
theorem exchange_answered {r : Reply} (hrx : replyBytes s ≠ []) (hdecode : verdict s.params s.ebdAck (replyBytes s) = .ok r)
    (hnak : nakBusy s.params r = false) : exchange cmd payload s =
      ((decoded s.ebdAck (replyBytes s) (received f (s.beginExchange f))).finishExchange, .answer r) := by
  rw [exchange_eq_loop hm hf]
  refine exchangeLoop_of_ended _ ?_
  rw [attempt_eq, show (s.beginExchange f).writeAnswer = true from hw, if_pos rfl,
    show replyBytes (s.beginExchange f) = replyBytes s from rfl, if_neg hrx]
  exact decodePhase_of_answer hdecode hnak

/-- An exchange whose first read is empty (42_exchange_retry.md R234). -/
theorem exchange_timedOut (hrx : replyBytes s = []) : exchange cmd payload s =
    ((received f (s.beginExchange f)).finishExchange, .failed .timeout) := by
  rw [exchange_eq_loop hm hf]
  refine exchangeLoop_of_ended _ ?_
  rw [attempt_eq, show (s.beginExchange f).writeAnswer = true from hw, if_pos rfl,
    show replyBytes (s.beginExchange f) = replyBytes s from rfl, if_pos hrx]

end

theorem exec_sesExchange_of {cmd payload : Bytes} {s t : State} {e : ExchEnd} (h : exchange cmd payload s = (t, e)) :
    exec (.sesExchange cmd payload) s = .next (t.latched e.shown.1 e.shown.2) := by
  refine (execSesExchange_eq cmd payload s).trans ?_
  rw [h]

/-- Settles O38: the exchange is its first transmission, which is decoded and neither NAK/BUSY nor an error. -/
theorem exchangeAnswered : Obligations.ExchangeAnswered := by
  intro s cmd payload f arr ws rs r rx hs hp hws hrs hf hrx hdecode hnak
  have hreply : replyBytes s = rx := by rw [replyBytes_eq, nextArrivals_of_script hrs]
  have hx := exchange_answered (mayExchange_of_polling hs hp) hf (writeAnswer_of_script hws) (hreply ▸ hrx)
    (by rw [hreply, ← decodeReply_verdict, hdecode]) hnak
  refine ⟨_, exec_sesExchange_of hx, Memory.read_store f, ?_, ?_⟩
  · rw [← hreply]
    exact Memory.read_store _
  · have harr : nextArrivals (s.beginExchange f) = arr := nextArrivals_of_script hrs
    have htraced : tracedIn (s.beginExchange f) [(.tx, f), (.rx, rx)] = [(.tx, f), (.rx, rx)] := if_pos hs
    have hreply' : replyBytes (s.beginExchange f) = rx := hreply
    rw [decodeReply_state, received, harr, hreply, hreply', htraced, beginExchange_writeScript, beginExchange_readScript,
      hws, hrs]
    rfl

/-- Settles O39: the exchange is its first transmission, whose read is empty. -/
theorem exchangeTimesOut : Obligations.ExchangeTimesOut := by
  intro s cmd payload f ws rs hs hp hline hws hrs hf
  have harr : nextArrivals (s.beginExchange f) = [] := nextArrivals_of_script hrs
  have hreply : replyBytes s = [] := by simp [replyBytes_eq, nextArrivals_of_script hrs, hline]
  have hx := exchange_timedOut (mayExchange_of_polling hs hp) hf (writeAnswer_of_script hws) hreply
  have hreply' : replyBytes (s.beginExchange f) = [] := hreply
  refine ⟨_, .none, exec_sesExchange_of hx, Memory.read_store f, fun a => ?_, ?_⟩
  · refine (Memory.read_store _ a).trans ?_
    rw [hreply']
    rfl
  · have htraced : tracedIn (s.beginExchange f) [(.tx, f), (.rx, [])] = [(.tx, f), (.rx, [])] := if_pos hs
    have hrest : (s.serialRx ++ []).drop s.params.rxCap = s.serialRx := by simp [hline]
    rw [received, harr, hreply', htraced, beginExchange_serialRx, beginExchange_params, hrest, beginExchange_writeScript,
      beginExchange_readScript, hws, hrs]
    rfl

/-! ### The micro-step Decode -/

theorem kindOf_of_error {ack : Bool} {rx : Bytes} {s : State} {e : DecErr} (h : (decodeReply ack rx s).2 = .error e) :
    kindOf s.params ack rx = .error e := by
  rw [decodeReply_verdict] at h
  simp only [kindOf, h]

theorem kindOf_of_nakBusy {ack : Bool} {rx : Bytes} {s : State} {r : Reply} (h : (decodeReply ack rx s).2 = .ok r)
    (hnak : nakBusy s.params r = true) : kindOf s.params ack rx = .nakBusy := by
  rw [decodeReply_verdict] at h
  simp only [kindOf, h, hnak, if_true]

theorem kindOf_of_answer {ack : Bool} {rx : Bytes} {s : State} {r : Reply} (h : (decodeReply ack rx s).2 = .ok r)
    (hnak : nakBusy s.params r = false) : kindOf s.params ack rx = .answer r := by
  rw [decodeReply_verdict] at h
  simp only [kindOf, h, hnak, Bool.false_eq_true, if_false]

/-- Settles O41: the classification is read off its definition, and each row is the law of its kind of reply. -/
theorem decodeMicroStep : Obligations.DecodeMicroStep := by
  refine ⟨?nakBusy, fun p => ⟨rfl, fun _ _ _ _ => rfl⟩, fun s ack rx => ⟨?errBelow, ?errAt, ?nakBelow, ?nakAt, ?answer⟩⟩
  case nakBusy =>
    intro p src cmd payload
    constructor <;> intro hfield <;> simp [Machine.nakBusy, hfield, cctNakBusy]
  case errBelow =>
    intro e herr hbound
    obtain ⟨t, hdone, hcnt, hnak, hflag, hcase⟩ := decodePhase_error (kindOf_of_error herr)
    rcases hcase with ⟨-, hagain, hrty, hack, hown⟩ | ⟨hat, -⟩
    · exact ⟨t, hagain, hrty, hcnt, hnak, hown, hflag, hack⟩
    · omega
  case errAt =>
    intro e herr hbound
    obtain ⟨t, hdone, hcnt, hnak, hflag, hcase⟩ := decodePhase_error (kindOf_of_error herr)
    rcases hcase with ⟨hbelow, -⟩ | ⟨-, hended, hrty, hown, -⟩
    · omega
    · exact ⟨t, hended, hrty, hcnt, hnak, hown, hflag, hdone.session.sesState, hdone.session.portOpen⟩
  case nakBelow =>
    intro r hok hbusy hbound
    obtain ⟨t, hdone, hcnt, herr, hflag, hcase⟩ := decodePhase_nak (kindOf_of_nakBusy hok hbusy)
    rcases hcase with ⟨-, hagain, hrty, hack, hown⟩ | ⟨hat, -⟩
    · exact ⟨t, hagain, hrty, hcnt, herr, hflag, hown, hack⟩
    · omega
  case nakAt =>
    intro r hok hbusy hbound
    obtain ⟨t, hdone, hcnt, herr, hflag, hcase⟩ := decodePhase_nak (kindOf_of_nakBusy hok hbusy)
    rcases hcase with ⟨hbelow, -⟩ | ⟨-, hended, hrty, hown, -⟩
    · omega
    · exact ⟨t, hended, hrty, hcnt, herr, hown, hflag, hdone.session.sesState, hdone.session.portOpen⟩
  case answer =>
    intro r hok hanswer
    obtain ⟨t, hended, -, hrty, hnak, herr, hnakFlag, herrFlag, -⟩ := decodePhase_answer (kindOf_of_answer hok hanswer)
    exact ⟨t, hended, hrty, hnak, herr, herrFlag, hnakFlag⟩

/-! ### The exchange that is always refused -/

/-- Transmissions of the frame `f` whose reply `rx` is refused each time: the reply is counted in `cnt` below the bound, and
at the bound ends the exchange with `flag` set. The other counter and flag stay (42_exchange_retry.md R235, R236). -/
structure AlwaysRefused (p : Params) (f : Bytes) (ack : Bool) (rx : Bytes) (last : LastReply) (bound : Nat)
    (cnt other : State → Byte) (flag otherFlag : State → Bool) : Prop where
  bound_le : bound ≤ 255
  refuse (s : State) : s.params = p → s.writeAnswer = true → replyBytes s = rx →
    ∃ t, Sent f s t ∧ cnt t = cnt s + 1 ∧ other t = other s ∧ otherFlag t = otherFlag s ∧
      (((cnt s).toNat + 1 < bound ∧ attempt f ack s = .again t last) ∨
        (bound ≤ (cnt s).toNat + 1 ∧ attempt f ack s = .ended t (.failed (.exhausted last)) ∧ flag t = true))

/-- The port accepts the next `k` writes and answers each with `rx` and nothing more. -/
structure Scripted (k : Nat) (rx : Bytes) (s : State) : Prop where
  line : s.serialRx = []
  fits : rx.length ≤ s.params.rxCap
  writes : ∃ ws, s.writeScript = List.replicate k true ++ ws
  reads : ∃ rs, s.readScript = List.replicate k rx ++ rs

theorem Scripted.next {k : Nat} {rx : Bytes} {s : State} (h : Scripted (k + 1) rx s) :
    s.writeAnswer = true ∧ nextArrivals s = rx ∧ replyBytes s = rx := by
  obtain ⟨ws, hws⟩ := h.writes
  obtain ⟨rs, hrs⟩ := h.reads
  have harr : nextArrivals s = rx := nextArrivals_of_script hrs
  refine ⟨writeAnswer_of_script hws, harr, ?_⟩
  rw [replyBytes_eq, harr, h.line, List.nil_append, List.take_of_length_le h.fits]

theorem Scripted.after {k : Nat} {rx f : Bytes} {s t : State} (h : Scripted (k + 1) rx s) (hsent : Sent f s t) :
    Scripted k rx t where
  line := by
    obtain ⟨-, harr, hreply⟩ := h.next
    have hline : replyBytes s ++ t.serialRx = s.serialRx ++ nextArrivals s := hsent.line
    rw [hreply, h.line, List.nil_append, harr] at hline
    simpa using hline
  fits := by rw [hsent.kept.params]; exact h.fits
  writes := by
    obtain ⟨ws, hws⟩ := h.writes
    exact ⟨ws, by rw [hsent.writeScript, hws]; rfl⟩
  reads := by
    obtain ⟨rs, hrs⟩ := h.reads
    exact ⟨rs, by rw [hsent.readScript, hrs]; rfl⟩

section
variable {p : Params} {f rx : Bytes} {ack : Bool} {last : LastReply} {bound : Nat} {cnt other : State → Byte}
  {flag otherFlag : State → Bool}

/-- One more refusal: with none left to the bound it ends the exchange, else another transmission follows. -/
theorem AlwaysRefused.next {k : Nat} {s : State} (h : AlwaysRefused p f ack rx last bound cnt other flag otherFlag)
    (hs : s.params = p) (hscript : Scripted (k + 1) rx s) (hcnt : (cnt s).toNat + (k + 1) = bound) :
    ∃ t, Sent f s t ∧ (cnt t).toNat = (cnt s).toNat + 1 ∧ other t = other s ∧ otherFlag t = otherFlag s ∧
      (k = 0 → attempt f ack s = .ended t (.failed (.exhausted last)) ∧ flag t = true) ∧
      (k ≠ 0 → attempt f ack s = .again t last) := by
  obtain ⟨hw, -, hreply⟩ := hscript.next
  obtain ⟨t, hsent, hsucc, hother, hflag, hcase⟩ := h.refuse s hs hw hreply
  have hle := h.bound_le
  refine ⟨t, hsent, by rw [hsucc, byte_succ (n := bound) (by omega) hle], hother, hflag, fun hk => ?_, fun hk => ?_⟩
  · rcases hcase with ⟨hbelow, -⟩ | ⟨-, hended⟩
    · omega
    · exact hended
  · rcases hcase with ⟨-, hagain⟩ | ⟨hat, -⟩
    · exact hagain
    · omega

/-- With `k + 1` refusals left to the bound, an exchange that is always refused sends its frame `k + 1` times and is
exhausted. -/
theorem exchangeLoop_alwaysRefused (h : AlwaysRefused p f ack rx last bound cnt other flag otherFlag) {k left : Nat}
    {s : State} (hs : s.params = p) (hscript : Scripted (k + 1) rx s) (hleft : k ≤ left)
    (hcnt : (cnt s).toNat + (k + 1) = bound) :
    ∃ t, exchangeLoop f ack left s = (t, .failed (.exhausted last)) ∧ SameSession s t ∧
      t.serialTx = s.serialTx ++ (List.replicate (k + 1) f).flatten ∧ (cnt t).toNat = bound ∧ other t = other s ∧
      flag t = true ∧ otherFlag t = otherFlag s := by
  induction k generalizing s left with
  | zero =>
    obtain ⟨t, hsent, hsucc, hother, hflag, hended, -⟩ := h.next hs hscript hcnt
    obtain ⟨hended, hown⟩ := hended rfl
    exact ⟨t, exchangeLoop_of_ended left hended, hsent.session, by simpa using hsent.serialTx, by omega, hother, hown, hflag⟩
  | succ k ih =>
    obtain ⟨t, hsent, hsucc, hother, hflag, -, hagain⟩ := h.next hs hscript hcnt
    obtain ⟨left, rfl⟩ : ∃ n, left = n + 1 := ⟨left - 1, by omega⟩
    obtain ⟨u, hloop, hsession, htx, hbound, hother', hown, hflag'⟩ :=
      ih (hsent.kept.params.trans hs) (hscript.after hsent) (left := left) (by omega) (by omega)
    refine ⟨u, ?_, hsent.session.trans hsession, ?_, hbound, hother'.trans hother, hown, hflag'.trans hflag⟩
    · simpa only [exchangeLoop, hagain (by omega)] using hloop
    · rw [htx, hsent.serialTx, List.replicate_succ (n := k + 1), List.flatten_cons, List.append_assoc]

/-- The exchange over that loop: it starts with its counter at 0 and its budget covers the bound. -/
theorem exchange_alwaysRefused {cmd payload : Bytes} {s : State}
    (h : AlwaysRefused s.params f s.ebdAck rx last bound cnt other flag otherFlag) (hm : s.mayExchange = true)
    (hf : encodeExchange s.params s.ebdAck cmd payload = some f) (hscript : Scripted bound rx s) (hpos : 1 ≤ bound)
    (hbudget : bound - 1 ≤ retransmissions s.params) (hcnt : cnt (s.beginExchange f) = 0) :
    ∃ t, exchange cmd payload s = (t, .failed (.exhausted last)) ∧ SameSession s t ∧
      t.serialTx = s.serialTx ++ (List.replicate bound f).flatten ∧ (cnt t).toNat = bound ∧
      other t = other (s.beginExchange f) ∧ flag t = true ∧ otherFlag t = otherFlag (s.beginExchange f) := by
  obtain ⟨k, rfl⟩ : ∃ k, bound = k + 1 := ⟨bound - 1, by omega⟩
  have hbegun : Scripted (k + 1) rx (s.beginExchange f) := ⟨hscript.line, hscript.fits, hscript.writes, hscript.reads⟩
  obtain ⟨t, hloop, hsession, hrest⟩ :=
    exchangeLoop_alwaysRefused h (k := k) (s := s.beginExchange f) rfl hbegun hbudget (by rw [hcnt]; exact Nat.zero_add _)
  exact ⟨t, (exchange_eq_loop hm hf).trans hloop, .trans (by constructor <;> rfl) hsession, hrest⟩

end

theorem alwaysRefused_nakBusy {p : Params} {ack : Bool} {rx : Bytes} (f : Bytes) (hp : ParamsBoundsOk p) (hrx : rx ≠ [])
    (hkind : kindOf p ack rx = .nakBusy) :
    AlwaysRefused p f ack rx .nakBusy (maxNak p) State.nakCnt State.errCnt State.fNakExh State.fErrExh where
  bound_le := maxNak_le hp
  refuse s hs hw hreply := by
    subst hs hreply
    obtain ⟨t, hsent, hnak, herr, hflag, hcase⟩ := attempt_nak (f := f) hw hrx hkind
    refine ⟨t, hsent, hnak, herr, hflag, hcase.imp ?_ ?_⟩
    · exact fun ⟨hbelow, hagain, _⟩ => ⟨hbelow, hagain⟩
    · exact fun ⟨hat, hended, _, hown, _⟩ => ⟨hat, hended, hown⟩

theorem alwaysRefused_error {p : Params} {ack : Bool} {rx : Bytes} {e : DecErr} (f : Bytes) (hp : ParamsBoundsOk p)
    (hrx : rx ≠ []) (hkind : kindOf p ack rx = .error e) :
    AlwaysRefused p f ack rx (.error e) (maxErr p) State.errCnt State.nakCnt State.fErrExh State.fNakExh where
  bound_le := maxErr_le hp
  refuse s hs hw hreply := by
    subst hs hreply
    obtain ⟨t, hsent, herr, hnak, hflag, hcase⟩ := attempt_error (f := f) hw hrx hkind
    refine ⟨t, hsent, herr, hnak, hflag, hcase.imp ?_ ?_⟩
    · exact fun ⟨hbelow, hagain, _⟩ => ⟨hbelow, hagain⟩
    · exact fun ⟨hat, hended, _, hown, _⟩ => ⟨hat, hended, hown⟩

theorem bounds_of_fixed {p : Params} (h : p.proto = .cctalk ∨ p.proto = .ccnet) : maxNak p = 3 ∧ maxErr p = 3 := by
  rcases h with h | h <;> simp [maxNak, maxErr, h, Config.fixedRetryBound]

theorem bounds_of_params {p : Params} (h : p.proto = .ebds ∨ p.proto = .wdg ∨ p.proto = .at) :
    maxNak p = p.otherMaxNak ∧ maxErr p = p.otherMaxErr := by
  rcases h with h | h | h <;> simp [maxNak, maxErr, h]

/-- Settles O42: the counter of the kind of reply reaches its bound with the last of its replies, and no sooner. -/
theorem alwaysRefusedSendsBound : Obligations.AlwaysRefusedSendsBound := by
  refine ⟨fun p => ⟨bounds_of_fixed, bounds_of_params⟩, ?_⟩
  intro s cmd payload f rx ws rs n hs hp hline hf hrx hfits hws hrs hbounds
  have hscript : Scripted n rx s := ⟨hline, hfits, ⟨ws, hws⟩, ⟨rs, hrs⟩⟩
  have hm := mayExchange_of_polling hs hp
  obtain ⟨hnakPos, herrPos⟩ := bounds_pos hbounds
  constructor
  · rintro r rfl hok hbusy
    have hrefused := alwaysRefused_nakBusy f hbounds hrx (kindOf_of_nakBusy hok hbusy)
    obtain ⟨t, hx, hsession, htx, hcnt, hother, hflag, hotherFlag⟩ :=
      exchange_alwaysRefused hrefused hm hf hscript hnakPos (by unfold retransmissions; omega) rfl
    exact ⟨_, exec_sesExchange_of hx, rfl, rfl, htx, hcnt, hother, hflag, hotherFlag, hsession.sesState.trans hs,
      hsession.portOpen.trans hp, hsession.devAvail⟩
  · rintro e rfl herr
    have hrefused := alwaysRefused_error f hbounds hrx (kindOf_of_error herr)
    obtain ⟨t, hx, hsession, htx, hcnt, hother, hflag, hotherFlag⟩ :=
      exchange_alwaysRefused hrefused hm hf hscript herrPos (by unfold retransmissions; omega) rfl
    exact ⟨_, exec_sesExchange_of hx, rfl, rfl, htx, hcnt, hother, hotherFlag, hflag, hsession.sesState.trans hs,
      hsession.portOpen.trans hp, hsession.devAvail⟩

/-! ### What holds through every exchange -/

/-- The state a transmission leaves, whether or not another follows. -/
def Turn.state : Turn → State
  | .again s _ | .ended s _ => s

theorem exchangeLoop_keeps {P : State → Prop} {f : Bytes} {ack : Bool} (hattempt : ∀ s, P s → P (attempt f ack s).state)
    (hfinish : ∀ s, P s → P s.finishExchange) (left : Nat) {s : State} (h : P s) : P (exchangeLoop f ack left s).1 := by
  induction left generalizing s with
  | zero =>
    have hnext := hattempt s h
    unfold exchangeLoop
    split <;> rename_i ha <;> rw [ha] at hnext
    · exact hnext
    · exact hfinish _ hnext
  | succ left ih =>
    have hnext := hattempt s h
    unfold exchangeLoop
    split <;> rename_i ha <;> rw [ha] at hnext
    · exact hnext
    · exact ih hnext

/-- A property that holds when an exchange begins, and that each transmission and the end keep, holds after it. -/
theorem exchange_keeps {P : State → Prop} (hbegin : ∀ s f, P s → P (s.beginExchange f))
    (hattempt : ∀ f ack s, P s → P (attempt f ack s).state) (hfinish : ∀ s, P s → P s.finishExchange)
    (cmd payload : Bytes) {s : State} (h : P s) : P (exchange cmd payload s).1 := by
  rcases exchange_cases cmd payload s with ⟨-, hx⟩ | ⟨-, -, hx⟩ | ⟨f, -, -, hx⟩
  · rwa [hx]
  · rwa [hx]
  · rw [hx]
    exact exchangeLoop_keeps (hattempt f _) hfinish _ (hbegin s f h)

/-- The state that the classification of a reply leaves: the retry registers, the exhaustion flags and the alternating bit
are all it writes (42_exchange_retry.md R231). -/
theorem classifyReply_state (d : Except DecErr Reply) (s : State) : ∃ rty nak err fNak fErr ack,
    (classifyReply d s).state =
      { s with rtyState := rty, nakCnt := nak, errCnt := err, fNakExh := fNak, fErrExh := fErr, ebdAck := ack } := by
  unfold classifyReply
  split
  · dsimp only
    split <;> exact ⟨_, _, _, _, _, _, rfl⟩
  · split
    · dsimp only
      split <;> exact ⟨_, _, _, _, _, _, rfl⟩
    · exact ⟨_, _, _, _, _, _, rfl⟩

/-- The three states a transmission can leave (42_exchange_retry.md R230). -/
theorem attempt_state_cases {P : State → Prop} {f : Bytes} {ack : Bool} {s : State}
    (hfailed : P (afterWrite f s).teardown.finishExchange) (hempty : P (received f s).finishExchange)
    (hdecoded : ∀ rty nak err fNak fErr ack', P { decoded ack (replyBytes s) (received f s) with
      rtyState := rty, nakCnt := nak, errCnt := err, fNakExh := fNak, fErrExh := fErr, ebdAck := ack' }) :
    P (attempt f ack s).state := by
  rw [attempt_eq]
  split_ifs
  · exact hempty
  · rw [decodePhase_eq]
    obtain ⟨rty, nak, err, fNak, fErr, ack', hstate⟩ :=
      classifyReply_state (verdict (received f s).params ack (replyBytes s)) (decoded ack (replyBytes s) (received f s))
    rw [hstate]
    exact hdecoded rty nak err fNak fErr ack'
  · exact hfailed

/-- The two decoder flags, where the family's decoder does not write them (41_framers.md R178, R192). -/
structure DecoderFlagsKept (s t : State) : Prop where
  params : t.params = s.params
  fExt : s.params.proto ≠ .ebds → t.fExt = s.fExt
  fResync : s.params.proto ≠ .ccnet → t.fResync = s.fResync

theorem afterWrite_eq (f : Bytes) (s : State) : afterWrite f s = { s with
    trace := s.trace ++ tracedIn s [(.tx, f)], writeScript := s.writeScript.tail, portCalls := s.portCalls + 1
    serialTx := s.serialTx ++ if s.writeAnswer then f else f.take (Config.portWriteReached s.portCalls) } := by
  rw [afterWrite, writePort_eq, traced_eq]
  rfl

theorem exchange_decoderFlags (cmd payload : Bytes) (s : State) : DecoderFlagsKept s (exchange cmd payload s).1 := by
  refine exchange_keeps (P := DecoderFlagsKept s) ?begin ?attempt ?finish cmd payload ⟨rfl, fun _ => rfl, fun _ => rfl⟩
  case begin => exact fun t f h => ⟨h.params, h.fExt, h.fResync⟩
  case finish => exact fun t h => ⟨h.params, h.fExt, h.fResync⟩
  case attempt =>
    intro f ack t h
    refine attempt_state_cases ?failed ⟨h.params, h.fExt, h.fResync⟩ fun rty nak err fNak fErr ack' => ?decoded
    case failed =>
      rw [afterWrite_eq]
      exact ⟨h.params, h.fExt, h.fResync⟩
    case decoded =>
      refine ⟨h.params, fun hebds => ?_, fun hccnet => ?_⟩
      · exact (if_neg (by rw [show (received f t).params = s.params from h.params]; exact hebds)).trans (h.fExt hebds)
      · exact (if_neg (by rw [show (received f t).params = s.params from h.params]; exact hccnet)).trans (h.fResync hccnet)

/-! ### The frame of an exchange -/

/-- The session after any exchange, whatever its bounds: torn down by a PortError, and as it was otherwise
(42_exchange_retry.md R236, R239). -/
theorem exchange_session_cases (cmd payload : Bytes) (s : State) :
    ((exchange cmd payload s).2 = .failed .portError ∧ TornDown (exchange cmd payload s).1) ∨
      ((exchange cmd payload s).2 ≠ .failed .portError ∧ SameSession s (exchange cmd payload s).1) := by
  rcases exchange_cases cmd payload s with ⟨-, hx⟩ | ⟨-, -, hx⟩ | ⟨f, hm, hf, -⟩
  · rw [hx]
    exact Or.inr ⟨nofun, .refl s⟩
  · rw [hx]
    exact Or.inr ⟨nofun, .refl s⟩
  · obtain ⟨-, -, hends⟩ := exchange_ends hm (by rw [hf]; exact nofun)
    exact hends

theorem exchange_sameSession {cmd payload : Bytes} {s : State} (h : (exchange cmd payload s).2 ≠ .failed .portError) :
    SameSession s (exchange cmd payload s).1 := by
  rcases exchange_session_cases cmd payload s with ⟨hport, -⟩ | ⟨-, hsession⟩
  · exact absurd hport h
  · exact hsession

theorem exchange_tornDown {cmd payload : Bytes} {s : State} (h : (exchange cmd payload s).2 = .failed .portError) :
    TornDown (exchange cmd payload s).1 := by
  rcases exchange_session_cases cmd payload s with ⟨-, htorn⟩ | ⟨hother, -⟩
  · exact htorn
  · exact absurd h hother

/-- An exchange that raises SizeError or ILLEGAL has done nothing else (60_exceptions.md R406, R407). -/
theorem exchange_refused {cmd payload : Bytes} {s : State}
    (h : (exchange cmd payload s).2.shown.1 = 0x09 ∨ (exchange cmd payload s).2.shown.1 = 0x0A) :
    (exchange cmd payload s).1 = s := by
  rcases exchange_cases cmd payload s with ⟨-, hx⟩ | ⟨-, -, hx⟩ | ⟨f, hm, hf, -⟩
  · rw [hx]
  · rw [hx]
  · obtain ⟨hillegal, hsize, -⟩ := exchange_ends hm (by rw [hf]; exact nofun)
    generalize (exchange cmd payload s).2 = e at h hillegal hsize
    rcases e with _ | ⟨_ | _ | _ | _ | _⟩ <;> simp [ExchEnd.shown, ExchErr.status, Status.code] at h hillegal hsize

/-- A command of a binary family is one byte (log 12). -/
theorem encodeExchange_command {p : Params} (ack : Bool) {cmd : Bytes} (payload : Bytes) (hproto : p.proto ≠ .at)
    (h : cmd.length ≠ 1) : encodeExchange p ack cmd payload = none := by
  unfold encodeExchange
  split
  case h_1 | h_2 | h_3 | h_4 => exact absurd rfl h
  case h_5 hat => exact absurd hat hproto
  all_goals rfl

theorem encodeExchange_payload {p : Params} (ack : Bool) (cmd : Bytes) {payload : Bytes}
    (hproto : p.proto = .wdg ∨ p.proto = .at) (h : payload ≠ []) : encodeExchange p ack cmd payload = none := by
  rcases hproto with hproto | hproto
  · by_cases hcmd : cmd.length = 1
    · obtain ⟨c, rfl⟩ := List.length_eq_one_iff.1 hcmd
      rw [encodeExchange_wdg hproto, if_pos h]
    · exact encodeExchange_command ack payload (by rw [hproto]; decide) hcmd
  · rw [encodeExchange_at ack cmd payload hproto, if_pos h]

theorem mayExchange_iff (s : State) :
    s.mayExchange = true ↔ (s.sesState = .polling ∨ s.sesState = .probing) ∧ s.portOpen = true :=
  decide_eq_true_iff

/-- Settles O45: a refused or oversized exchange is a status alone, and any other is a loop of transmissions. -/
theorem exchangeFrame : Obligations.ExchangeFrame := by
  refine ⟨?oversized, fun p ack cmd payload => ⟨?payload, ?command⟩, ?frame⟩
  case oversized =>
    intro s cmd payload hs hp hf
    have hx : exchange cmd payload s = (s, .failed .sizeError) := by
      simp only [exchange, (mayExchange_iff s).2 ⟨hs, hp⟩, hf, if_true]
    exact ⟨.none, exec_sesExchange_of hx⟩
  case payload => exact fun ⟨hproto, hpayload⟩ => encodeExchange_payload ack cmd hproto hpayload
  case command => exact fun ⟨hproto, hcmd⟩ => encodeExchange_command ack payload hproto hcmd
  case frame =>
    intro s t cmd payload hexec
    obtain rfl := Host.Outcome.next.inj ((execSesExchange_eq cmd payload s).symm.trans hexec)
    have hkept := exchange_kept cmd payload s
    have hflags := exchange_decoderFlags cmd payload s
    refine ⟨hkept.acc8, hkept.crc, hkept.accx, hkept.stopPoll, hkept.maxSum, hkept.rejectAboveMax, hkept.hasDbError,
      hkept.lastEscTime, hkept.evq, hkept.params, hkept.pending, hkept.openScript, hflags.fExt, hflags.fResync, ?session,
      ?refused⟩
    case session =>
      intro hcode
      have hsession : SameSession s (exchange cmd payload s).1 := exchange_sameSession (mt (shown_portError_iff _).2 hcode)
      exact ⟨hsession.sesState, hsession.portOpen, hsession.devAvail, hsession.accSum, hsession.fSumOvf, hsession.escPrev,
        hsession.escrowed, hsession.lastCmd, hsession.pendAcc⟩
    case refused =>
      intro hcode
      rw [exchange_refused hcode]
      rfl

/-! ### The alternating bit -/

/-- Settles O44: an exchange that sends something ends in `finish()`, and the framers do not write the bit. -/
theorem alternatingBitPerExchange : Obligations.AlternatingBitPerExchange := by
  refine ⟨?encode, ?decode, ?exchange⟩
  case encode =>
    intro s t cmd payload hexec
    obtain rfl := Host.Outcome.next.inj hexec
    cases ebdEncode s.params s.ebdAck cmd payload <;> rfl
  case decode =>
    intro s t expect hexec
    obtain ⟨rx, -, rfl⟩ := withRx_next.1 hexec
    dsimp only
    cases ebdDecode s.params expect rx <;> rfl
  case exchange =>
    intro s t cmd payload hbounds hexec
    obtain rfl := Host.Outcome.next.inj ((execSesExchange_eq cmd payload s).symm.trans hexec)
    simp only [← mayExchange_iff, ← and_assoc]
    rcases exchange_cases cmd payload s with ⟨hm, hx⟩ | ⟨-, hf, hx⟩ | ⟨f, hm, hf, -⟩
    · simp [hx, hm, State.latched]
    · simp [hx, hf, State.latched]
    · have hfinished := exchange_finished hbounds hm hf
      have hack : (exchange cmd payload s).1.ebdAck = toggled s := hfinished.ack
      have hrty : (exchange cmd payload s).1.rtyState = .idle := hfinished.rty
      simp [State.latched, hm, hf, hack, hrty, toggled]

end Sys2Proof.Machine
end

section
/-! What every operation leaves as it is, said once: the operations outside the session by one relation to the state before,
SES.PROBE and SES.CYCLE by an induction over the exchanges and polls they are made of. -/

namespace Sys2Proof.Machine

/-! ### The operations outside the session -/

/-- The operations that write no session, retry or escrow register: CHK, FRM, ATD, SES.STOPREQ, the settings of the escrow
unit, and the frames on the line. -/
def isLocal : Instr → Bool
  | .sysReset | .sesProbe | .sesStart | .sesStop | .sesClose | .sesExchange .. | .sesCycle _ | .escPoll .. => false
  | _ => true

/-- What an operation outside the session leaves as it is. A buffer it stores to agrees with its length, and the line of a
closed port stays as it is. -/
structure LocalKept (i : Instr) (s t : State) : Prop where
  session : SameSession s t
  params : t.params = s.params
  rtyState : t.rtyState = s.rtyState
  nakCnt : t.nakCnt = s.nakCnt
  errCnt : t.errCnt = s.errCnt
  fNakExh : t.fNakExh = s.fNakExh
  fErrExh : t.fErrExh = s.fErrExh
  evq : t.evq = s.evq
  serialTx : t.serialTx = s.serialTx
  trace : t.trace = s.trace
  line : s.portOpen = false → t.serialRx = s.serialRx
  tx : BufferOk s.txbuf s.txLen s.params.txCap → BufferOk t.txbuf t.txLen s.params.txCap
  rx : BufferOk s.rxbuf s.rxLen s.params.rxCap → BufferOk t.rxbuf t.rxLen s.params.rxCap
  code : s.lastErr.toNat ≤ 0x0A → t.lastErr.toNat ≤ 0x0A
  limits : (∀ m rej, i ≠ .escCfg m rej) → t.maxSum = s.maxSum ∧ t.rejectAboveMax = s.rejectAboveMax

section
variable {i : Instr} {s : State}

/-- An operation that writes no more than CHK registers, decoder flags and settings, and latches a status. -/
theorem localKept_complete (acc8 : Byte) (crc : Half) (accx : Byte) (fExt fResync stopPoll hasDbError : Bool) (st : Status)
    (r : Result) : LocalKept i s ({ s with
      acc8 := acc8, crc := crc, accx := accx, fExt := fExt, fResync := fResync, stopPoll := stopPoll
      hasDbError := hasDbError }.complete st r) :=
  ⟨⟨rfl, rfl, rfl, rfl, rfl, rfl, rfl, rfl, rfl⟩, rfl, rfl, rfl, rfl, rfl, rfl, rfl, rfl, rfl, fun _ => rfl, id, id,
    fun _ => status_code_le st, fun _ => ⟨rfl, rfl⟩⟩

theorem localKept_escCfg (m : Word) (rej : Bool) :
    LocalKept (.escCfg m rej) s ({ s with maxSum := m, rejectAboveMax := rej }.complete .ok .none) :=
  ⟨⟨rfl, rfl, rfl, rfl, rfl, rfl, rfl, rfl, rfl⟩, rfl, rfl, rfl, rfl, rfl, rfl, rfl, rfl, rfl, fun _ => rfl, id, id,
    fun _ => status_code_le .ok, fun h => absurd rfl (h m rej)⟩

theorem localKept_putTx {f : Bytes} (h : f.length ≤ s.params.txCap) :
    LocalKept i s ((s.putTx f).complete .ok .none) :=
  ⟨⟨rfl, rfl, rfl, rfl, rfl, rfl, rfl, rfl, rfl⟩, rfl, rfl, rfl, rfl, rfl, rfl, rfl, rfl, rfl, fun _ => rfl,
    fun _ => bufferOk_store h, id, fun _ => status_code_le .ok, fun _ => ⟨rfl, rfl⟩⟩

theorem localKept_putRx {f : Bytes} (h : f.length ≤ s.params.rxCap) :
    LocalKept i s ((s.putRx f).complete .ok .none) :=
  ⟨⟨rfl, rfl, rfl, rfl, rfl, rfl, rfl, rfl, rfl⟩, rfl, rfl, rfl, rfl, rfl, rfl, rfl, rfl, rfl, fun _ => rfl, id,
    fun _ => bufferOk_store h, fun _ => status_code_le .ok, fun _ => ⟨rfl, rfl⟩⟩

theorem localKept_encodeTo {frame : Option Bytes} (h : ∀ f, frame = some f → f.length ≤ s.params.txCap) :
    LocalKept i s (encodeTo s frame) := by
  rcases encodeTo_cases s frame with ⟨f, hf, ht⟩ | ⟨-, ht⟩ <;> rw [ht]
  · exact localKept_putTx (h f hf)
  · exact localKept_complete ..

theorem localKept_decodeTo (fExt : Bool) (d : Except DecErr Result) :
    LocalKept i s (decodeTo { s with fExt := fExt } d) := by
  rcases decodeTo_cases { s with fExt := fExt } d with ⟨r, -, ht⟩ | ⟨e, -, ht⟩ <;> rw [ht]
  · exact localKept_complete ..
  · exact localKept_complete ..

theorem localKept_deliver (bs : Bytes) : LocalKept i s (s.deliver bs) := by
  rw [deliver_eq]
  exact ⟨⟨rfl, rfl, rfl, rfl, rfl, rfl, rfl, rfl, rfl⟩, rfl, rfl, rfl, rfl, rfl, rfl, rfl, rfl, rfl,
    fun hclosed => if_neg (by simp [hclosed]), id, id, id, fun _ => ⟨rfl, rfl⟩⟩

end

/-- Every operation outside the session. -/
theorem exec_local {i : Instr} {s t : State} (hi : isLocal i = true) (h : exec i s = .next t) : LocalKept i s t := by
  cases i with
  | sysReset | sesProbe | sesStart | sesStop | sesClose | sesExchange | sesCycle | escPoll => cases hi
  | chkS8Init | chkS8Upd | chkS8Fin | chkC16Init | chkC16Upd | chkC16Fin | chkX8Init | chkX8Upd | chkX8Fin | sesStopreq
    | escDberr =>
    obtain rfl := Host.Outcome.next.inj h
    exact localKept_complete ..
  | escCfg m rej =>
    obtain rfl := Host.Outcome.next.inj h
    exact localKept_escCfg m rej
  | frmLoad bytes =>
    obtain rfl := Host.Outcome.next.inj h
    split
    · exact localKept_complete ..
    next hfits => exact localKept_putRx (Nat.le_of_not_lt hfits)
  | frmCctEnc dest src cmd payload =>
    obtain rfl := Host.Outcome.next.inj h
    exact localKept_encodeTo fun _ => cctEncode_length
  | frmCcnEnc addr cmd payload =>
    obtain rfl := Host.Outcome.next.inj h
    exact localKept_encodeTo fun _ => ccnEncode_length
  | frmEbdEnc cmd payload =>
    obtain rfl := Host.Outcome.next.inj h
    exact localKept_encodeTo fun _ => ebdEncode_length
  | frmWdgEnc cmd =>
    obtain rfl := Host.Outcome.next.inj h
    exact localKept_encodeTo fun _ => wdgEncode_length
  | atdEnc text term =>
    obtain rfl := Host.Outcome.next.inj h
    exact localKept_encodeTo fun _ => atEncode_length
  | frmCctDec | frmEbdDec | frmWdgDec | frmWdgChk | atdDec =>
    obtain ⟨rx, -, rfl⟩ := withRx_next.1 h
    exact localKept_decodeTo _ _
  | frmCcnDec expect =>
    obtain ⟨rx, -, rfl⟩ := withRx_next.1 h
    dsimp only
    split <;> exact localKept_complete ..
  | atdUssd =>
    obtain ⟨rx, -, rfl⟩ := withRx_next.1 h
    split <;> exact localKept_complete ..
  | wireCctalk | wireCcnet | wireEbds | wireWatchdog | wireAt =>
    obtain rfl := Host.Outcome.next.inj h
    exact localKept_deliver _

/-- An operation answers a next state, unless a byte of RXBUF it needs holds no value. -/
theorem exec_next (i : Instr) {s : State} {rx : Bytes} (h : s.rxBytes = some rx) : ∃ t, exec i s = .next t := by
  cases i with
  | frmCctDec | frmCcnDec | frmEbdDec | frmWdgDec | frmWdgChk | atdDec | atdUssd => exact ⟨_, withRx_some h⟩
  | _ => exact ⟨_, rfl⟩

/-! ### The operations made of exchanges and polls -/

/-- SES.EXCHANGE latches a status over the exchange (60_exceptions.md R383). -/
theorem exec_sesExchange_complete {cmd payload : Bytes} {s t : State} (h : exec (.sesExchange cmd payload) s = .next t) :
    ∃ st r, t = (exchange cmd payload s).1.complete st r := by
  obtain ⟨u, e, hx, rfl⟩ := exchange_of_exec h
  rw [hx]
  cases e with
  | answer r => exact ⟨.ok, .reply r, rfl⟩
  | failed e => exact ⟨e.status, e.info, rfl⟩

theorem cycleFailed_complete (s : State) (e : ExchErr) (repoll : Bool) : ∃ st r, s.cycleFailed e repoll = s.complete st r := by
  cases e <;> exact ⟨_, _, rfl⟩

section
variable {P : State → Prop} (hexchange : ∀ c s, s.sesState = .polling → P s → P (exchange c [] s).1)
  (hlatch : ∀ st r s, P s → P (s.complete st r))
include hexchange hlatch

theorem cycleCommand_keeps {cmd : EscCmd} {s : State} (hs : s.sesState = .polling) (h : P s) : P (cycleCommand cmd s) := by
  cases hc : commandOf s.params cmd with
  | none =>
    rw [cycleCommand_undecided hc]
    exact hlatch _ _ s h
  | some c =>
    have hafter := hexchange c s hs h
    obtain ⟨⟨u, e⟩, hx⟩ : ∃ ended, exchange c [] s = ended := ⟨_, rfl⟩
    rw [hx] at hafter
    cases e with
    | answer r =>
      rw [cycleCommand_answered hc hx]
      exact hlatch _ _ u hafter
    | failed e =>
      rw [cycleCommand_failed hc hx]
      obtain ⟨st, r, hend⟩ := cycleFailed_complete u e true
      rw [hend]
      exact hlatch _ _ u hafter

/-- A property that an exchange and a poll while polling keep, and the latching of a status, holds through SES.CYCLE. -/
theorem exec_sesCycle_keeps (hpoll : ∀ st now s, s.sesState = .polling → P s → P (poll st now s).1) {now : Word}
    {s t : State} (hexec : exec (.sesCycle now) s = .next t) (h : P s) : P t := by
  by_cases hs : s.sesState = .polling
  swap
  · obtain rfl := Host.Outcome.next.inj ((execSesCycle_refused now hs).symm.trans hexec)
    exact hlatch _ _ s h
  cases hstop : s.stopPoll with
  | true =>
    obtain rfl := Host.Outcome.next.inj ((execSesCycle_stopped now hs hstop).symm.trans hexec)
    exact hlatch _ _ s h
  | false =>
    obtain rfl := Host.Outcome.next.inj ((execSesCycle_running now hs hstop).symm.trans hexec)
    have hafter := hexchange s.params.cmdPoll s hs h
    have hsession := exchange_sameSession (cmd := s.params.cmdPoll) (payload := []) (s := s)
    obtain ⟨⟨u, e⟩, hx⟩ : ∃ ended, exchange s.params.cmdPoll [] s = ended := ⟨_, rfl⟩
    rw [hx] at hafter hsession
    cases e with
    | failed e =>
      rw [cyclePoll_failed now hx]
      obtain ⟨st, r, hend⟩ := cycleFailed_complete u e false
      rw [hend]
      exact hlatch _ _ u hafter
    | answer r =>
      have hu : u.sesState = .polling := (hsession nofun).sesState.trans hs
      rw [cyclePoll_answered now hx]
      exact cycleCommand_keeps hexchange hlatch ((pollKept_poll u _ now).sesState.trans hu) (hpoll _ now u hu hafter)

end

section
variable {P : State → Prop} (hexchange : ∀ cmd payload s, s.sesState = .probing → P s → P (exchange cmd payload s).1)
  (hsession : ∀ ses s, ses ≠ .polling → P s → P { s with sesState := ses })
include hexchange hsession

theorem followups_keeps (pairs : List (Bytes × Bytes)) (replies : List ExchEnd) {s : State} (h : P s) :
    P (followups pairs replies s).1 := by
  induction pairs generalizing replies s with
  | nil => exact h
  | cons pair rest ih =>
    have hafter := hexchange pair.1 pair.2 _ rfl (hsession .probing s nofun h)
    unfold followups
    split <;> rename_i hx <;> rw [hx] at hafter
    · exact hafter
    · exact ih _ hafter

variable (hlatch : ∀ st r s, P s → P (s.complete st r)) (havail : ∀ avail s, P s → P { s with devAvail := avail })
  (hclose : ∀ s, P s → P s.closePort)
include hlatch havail hclose

theorem probeIdentified_keeps (ident : Reply) {s : State} (h : P s) : P (probeIdentified ident s) := by
  have hfollowed := followups_keeps hexchange hsession s.params.probeFollowups []
    (havail true _ (hsession .identified s nofun h))
  unfold probeIdentified
  split <;> rename_i hf <;> rw [hf] at hfollowed
  · exact hlatch _ _ _ hfollowed
  · exact hlatch _ _ _ (hsession _ _ nofun (hclose _ hfollowed))

theorem probeOpened_keeps {s : State} (h : P s) : P (probeOpened s) := by
  have hafter := hexchange (identCommand s.params) [] _ rfl (hsession .probing s nofun h)
  have hnotFound : ∀ v, P v → P v.probeNotFound := fun v hv =>
    hlatch _ _ _ (havail false _ (hsession .closed _ nofun (hclose v hv)))
  unfold probeOpened
  split <;> rename_i hx <;> rw [hx] at hafter
  · exact hlatch _ _ _ hafter
  · exact hnotFound _ hafter
  · split
    · exact probeIdentified_keeps hexchange hsession hlatch havail hclose _ hafter
    · exact hnotFound _ hafter

/-- A property that an exchange while probing, the latching of a status, and the writes of a probe to port and session keep
holds through SES.PROBE. -/
theorem exec_sesProbe_keeps (hopen : ∀ s, P s → P s.openPort.2) {s t : State} (hexec : exec .sesProbe s = .next t)
    (h : P s) : P t := by
  obtain rfl := Host.Outcome.next.inj hexec
  have hopened := hopen s h
  split
  · exact hlatch _ _ s h
  split <;> rename_i ho <;> rw [ho] at hopened
  · exact hlatch _ _ _ (havail false _ hopened)
  · exact probeOpened_keeps hexchange hsession hlatch havail hclose hopened

end

/-! ### The operations that are one change of the session -/

/-- SES.START: refused, or the port did not open, or polling begins (42_exchange_retry.md R222). -/
theorem exec_sesStart_cases {s t : State} (h : exec .sesStart s = .next t) :
    (s.sesState ≠ .identified ∧ t = s.refuse) ∨
      (s.sesState = .identified ∧ s.openAnswer = false ∧
        t = { s.openPort.2 with sesState := .closed, devAvail := false }.complete .portError .none) ∨
      (s.sesState = .identified ∧ s.openAnswer = true ∧
        t = { s.openPort.2 with sesState := .polling, stopPoll := false }.escReset.complete .ok .none) := by
  by_cases hs : s.sesState = .identified
  · cases hopen : s.openAnswer with
    | false => exact Or.inr (Or.inl ⟨hs, rfl, (Host.Outcome.next.inj ((execSesStart_failed hs hopen).symm.trans h)).symm⟩)
    | true => exact Or.inr (Or.inr ⟨hs, rfl, (Host.Outcome.next.inj ((execSesStart_opened hs hopen).symm.trans h)).symm⟩)
  · exact Or.inl ⟨hs, (Host.Outcome.next.inj ((execSesStart_refused hs).symm.trans h)).symm⟩

theorem exec_sesStop_cases {s t : State} (h : exec .sesStop s = .next t) :
    (s.sesState ≠ .polling ∧ t = s.refuse) ∨
      (s.sesState = .polling ∧ t = { s.closePort with sesState := .closed }.escReset.complete .ok .none) := by
  by_cases hs : s.sesState = .polling
  · exact Or.inr ⟨hs, (Host.Outcome.next.inj ((execSesStop_polling hs).symm.trans h)).symm⟩
  · exact Or.inl ⟨hs, (Host.Outcome.next.inj ((execSesStop_refused hs).symm.trans h)).symm⟩

theorem exec_sesClose_cases {s t : State} (h : exec .sesClose s = .next t) :
    (s.sesState ≠ .identified ∧ t = s.refuse) ∨
      (s.sesState = .identified ∧ t = { s with sesState := .closed, devAvail := false }.complete .ok .none) := by
  by_cases hs : s.sesState = .identified
  · exact Or.inr ⟨hs, (Host.Outcome.next.inj ((execSesClose_identified hs).symm.trans h)).symm⟩
  · exact Or.inl ⟨hs, (Host.Outcome.next.inj ((execSesClose_refused hs).symm.trans h)).symm⟩

theorem exec_escPoll_cases {st : PollState} {now : Word} {s t : State} (h : exec (.escPoll st now) s = .next t) :
    (s.sesState ≠ .polling ∧ t = s.refuse) ∨
      (s.sesState = .polling ∧
        t = (poll st now s).1.complete .ok (.decision (poll st now s).2 (repollOf (poll st now s).2))) := by
  by_cases hs : s.sesState = .polling
  · exact Or.inr ⟨hs, (Host.Outcome.next.inj ((execEscPoll_polling st now hs).symm.trans h)).symm⟩
  · have hrefused : execEscPoll st now s = .next s.refuse := congrArg Host.Outcome.next (if_pos hs)
    exact Or.inl ⟨hs, (Host.Outcome.next.inj (hrefused.symm.trans h)).symm⟩

end Sys2Proof.Machine
end

section
/-! Money safety, the event queue and the parameters, through every operation (43_escrow.md R286, R292; 10_state.md R50;
60_exceptions.md R391; 20_memory.md R77). -/

namespace Sys2Proof.Machine

/-! ### The maximum of the sum -/

theorem moneySafe_of_eq {s t : State} (hrej : t.rejectAboveMax = s.rejectAboveMax) (hmax : t.maxSum = s.maxSum)
    (hsum : t.accSum = s.accSum) (h : MoneySafe s) : MoneySafe t := by
  rw [MoneySafe, hrej, hmax, hsum]
  exact h

/-- A sum that was reset is within any maximum. -/
theorem moneySafe_of_cleared {s : State} (h : s.accSum = 0) : MoneySafe s := fun _ => by
  rw [h]
  exact Nat.zero_le _

theorem exchange_moneySafe (cmd payload : Bytes) {s : State} (h : MoneySafe s) : MoneySafe (exchange cmd payload s).1 := by
  have hkept := exchange_kept cmd payload s
  by_cases hport : (exchange cmd payload s).2 = .failed .portError
  · exact moneySafe_of_cleared (exchange_tornDown hport).esc.1
  · exact moneySafe_of_eq hkept.rejectAboveMax hkept.maxSum (exchange_sameSession hport).accSum h

/-- Only an escrow event writes the sum (43_escrow.md R281, R287 to R290). -/
theorem poll_sum_of_ne {s : State} {st : PollState} (now : Word) (h : ∀ d, st ≠ .escrow d) :
    (poll st now s).1.accSum = s.accSum ∧ (poll st now s).1.fSumOvf = s.fSumOvf := by
  by_cases hstk : ∃ d, st = .stacked d
  · obtain ⟨d, rfl⟩ := hstk
    rw [poll_stacked]
    exact ⟨rfl, rfl⟩
  · rw [poll_of_no_bill now h (not_exists.1 hstk)]
    exact ⟨rfl, rfl⟩

theorem aboveMax_of_accept {s : State} {d now : Word} (h : escrowArm s d now = .accept) : aboveMax s d = false := by
  rcases escrowArm_cases s d now with ⟨-, harm⟩ | ⟨-, -, harm⟩ | ⟨-, -, -, harm⟩ | ⟨-, -, -, -, harm⟩ |
    ⟨-, -, -, hmax, -⟩
  case inr.inr.inr.inr => exact hmax
  all_goals
    rw [harm] at h
    cases h

/-- Of the arms of a poll only the acceptance adds to the sum, and the max-sum test stands before it (43_escrow.md R280). -/
theorem poll_moneySafe (st : PollState) (now : Word) {s : State} (h : MoneySafe s) : MoneySafe (poll st now s).1 := by
  have hkept := pollKept_poll s st now
  by_cases hesc : ∃ d, st = .escrow d
  swap
  · exact moneySafe_of_eq hkept.rejectAboveMax hkept.maxSum (poll_sum_of_ne now (not_exists.1 hesc)).1 h
  obtain ⟨d, rfl⟩ := hesc
  by_cases harm : escrowArm s d now = .accept
  · intro hrej
    rw [hkept.rejectAboveMax] at hrej
    simp only [poll_escrow, harm, if_true]
    exact (accept_below_max hrej (aboveMax_of_accept harm)).2
  · have hsum : (poll (.escrow d) now s).1.accSum = s.accSum := by
      simp only [poll_escrow, harm, if_false]
    exact moneySafe_of_eq hkept.rejectAboveMax hkept.maxSum hsum h

/-- Settles O52: an operation adds to the sum only in a poll, below the maximum; SYS.RESET clears the condition's premise. -/
theorem sumStaysWithinMaximum : Obligations.SumStaysWithinMaximum := by
  intro i s t hcfg h hexec
  cases hlocal : isLocal i with
  | true =>
    have hkept := exec_local hlocal hexec
    obtain ⟨hmax, hrej⟩ := hkept.limits hcfg
    exact moneySafe_of_eq hrej hmax hkept.session.accSum h
  | false =>
    cases i with
    | sysReset =>
      obtain rfl := Host.Outcome.next.inj ((exec_sysReset s).symm.trans hexec)
      exact moneySafe_of_cleared rfl
    | sesProbe =>
      exact exec_sesProbe_keeps (fun cmd payload s _ => exchange_moneySafe cmd payload) (fun _ _ _ h => h)
        (fun _ _ _ h => h) (fun _ _ h => h) (fun _ h => h) (fun s h => by rw [openPort_eq]; exact h) hexec h
    | sesStart =>
      rcases exec_sesStart_cases hexec with ⟨-, rfl⟩ | ⟨-, -, rfl⟩ | ⟨-, -, rfl⟩
      · exact h
      · rw [openPort_eq]
        exact h
      · exact moneySafe_of_cleared rfl
    | sesStop =>
      rcases exec_sesStop_cases hexec with ⟨-, rfl⟩ | ⟨-, rfl⟩
      · exact h
      · exact moneySafe_of_cleared rfl
    | sesClose => rcases exec_sesClose_cases hexec with ⟨-, rfl⟩ | ⟨-, rfl⟩ <;> exact h
    | sesExchange cmd payload =>
      obtain ⟨st, r, rfl⟩ := exec_sesExchange_complete hexec
      exact exchange_moneySafe cmd payload h
    | sesCycle now =>
      exact exec_sesCycle_keeps (fun c s _ => exchange_moneySafe c []) (fun _ _ _ h => h)
        (fun st now s _ => poll_moneySafe st now) hexec h
    | escPoll st now =>
      rcases exec_escPoll_cases hexec with ⟨-, rfl⟩ | ⟨-, rfl⟩
      · exact h
      · exact poll_moneySafe st now h
    | _ => cases hlocal

/-! ### The event queue and the parameters -/

/-- A state with the parameters and the event queue of another. -/
structure SameQueue (s t : State) : Prop where
  params : t.params = s.params
  evq : t.evq = s.evq

/-- A state with the parameters of another, and with events joined to its queue. -/
structure QueueGrown (s t : State) : Prop where
  params : t.params = s.params
  evq : ∃ es, t.evq = s.evq ++ es

theorem exchange_sameQueue (cmd payload : Bytes) {s t : State} (h : SameQueue s t) :
    SameQueue s (exchange cmd payload t).1 :=
  ⟨(exchange_kept cmd payload t).params.trans h.params, (exchange_kept cmd payload t).evq.trans h.evq⟩

theorem exchange_queueGrown (cmd payload : Bytes) {s t : State} (h : QueueGrown s t) :
    QueueGrown s (exchange cmd payload t).1 := by
  obtain ⟨es, hes⟩ := h.evq
  exact ⟨(exchange_kept cmd payload t).params.trans h.params, es, (exchange_kept cmd payload t).evq.trans hes⟩

theorem poll_queueGrown (st : PollState) (now : Word) {s t : State} (h : QueueGrown s t) :
    QueueGrown s (poll st now t).1 := by
  obtain ⟨es, hes⟩ := h.evq
  obtain ⟨more, hmore, -⟩ := poll_events t st now
  exact ⟨(pollKept_poll t st now).params.trans h.params, es ++ more, by rw [hmore, hes, List.append_assoc]⟩

/-- The operations that emit events (60_exceptions.md R391). -/
def emits : Instr → Bool
  | .escPoll .. | .sesCycle _ => true
  | _ => false

theorem exec_queueGrown {i : Instr} {s t : State} (hi : emits i = true) (h : exec i s = .next t) : QueueGrown s t := by
  have hrefl : QueueGrown s s := ⟨rfl, [], by simp⟩
  cases i with
  | escPoll st now =>
    rcases exec_escPoll_cases h with ⟨-, rfl⟩ | ⟨-, rfl⟩
    · exact ⟨rfl, hrefl.evq⟩
    · have hpoll := poll_queueGrown st now hrefl
      exact ⟨hpoll.params, hpoll.evq⟩
  | sesCycle now =>
    exact exec_sesCycle_keeps (P := QueueGrown s) (fun c t _ => exchange_queueGrown c []) (fun _ _ _ h => ⟨h.params, h.evq⟩)
      (fun st now t _ => poll_queueGrown st now) h hrefl
  | _ => cases hi

theorem exec_sameQueue {i : Instr} {s t : State} (hi : emits i = false) (hreset : i ≠ .sysReset)
    (h : exec i s = .next t) : SameQueue s t := by
  cases hlocal : isLocal i with
  | true =>
    have hkept := exec_local hlocal h
    exact ⟨hkept.params, hkept.evq⟩
  | false =>
    cases i with
    | sysReset => exact absurd rfl hreset
    | sesProbe =>
      exact exec_sesProbe_keeps (P := SameQueue s) (fun cmd payload t _ => exchange_sameQueue cmd payload)
        (fun _ _ _ h => ⟨h.params, h.evq⟩) (fun _ _ _ h => ⟨h.params, h.evq⟩) (fun _ _ h => ⟨h.params, h.evq⟩)
        (fun _ h => ⟨h.params, h.evq⟩) (fun s h => by rw [openPort_eq]; exact ⟨h.params, h.evq⟩) h ⟨rfl, rfl⟩
    | sesStart =>
      rcases exec_sesStart_cases h with ⟨-, rfl⟩ | ⟨-, -, rfl⟩ | ⟨-, -, rfl⟩
      · exact ⟨rfl, rfl⟩
      · rw [openPort_eq]
        exact ⟨rfl, rfl⟩
      · rw [openPort_eq]
        exact ⟨rfl, rfl⟩
    | sesStop => rcases exec_sesStop_cases h with ⟨-, rfl⟩ | ⟨-, rfl⟩ <;> exact ⟨rfl, rfl⟩
    | sesClose => rcases exec_sesClose_cases h with ⟨-, rfl⟩ | ⟨-, rfl⟩ <;> exact ⟨rfl, rfl⟩
    | sesExchange cmd payload =>
      obtain ⟨st, r, rfl⟩ := exec_sesExchange_complete h
      have hkept := exchange_sameQueue cmd payload (s := s) ⟨rfl, rfl⟩
      exact ⟨hkept.params, hkept.evq⟩
    | sesCycle | escPoll => cases hi
    | _ => cases hlocal

theorem exec_params {i : Instr} {s t : State} (h : exec i s = .next t) : t.params = s.params := by
  by_cases hreset : i = .sysReset
  · subst hreset
    obtain rfl := Host.Outcome.next.inj ((exec_sysReset s).symm.trans h)
    rfl
  cases hi : emits i with
  | true => exact (exec_queueGrown hi h).params
  | false => exact (exec_sameQueue hi hreset h).params

/-! ### The step, by what was fetched -/

/-- A state that an input leaves without an instruction: the bytes of the device delivered, an event taken, an undefined code
refused, or nothing (00_scope.md R18; 30_encoding.md R120; log 10, log 19). -/
inductive TakesInput (s : State) : State → Prop where
  | idle : TakesInput s s
  | refused : TakesInput s s.refuse
  | event : TakesInput s s.takeEvent
  | line (bs : Bytes) : TakesInput s (s.deliver bs)

/-- A step is the execution of an instruction, no more than the taking of an input, or the stop at a malformed request. -/
theorem step_outcome (s : State) :
    (∃ i rest, step s = exec i { s with pending := rest }) ∨
      (∃ t rest, step s = .next t ∧ TakesInput { s with pending := rest } t) ∨
      ∃ e, step s = .refused (.malformedRequest e) := by
  cases hpending : s.pending with
  | nil => exact Or.inr (Or.inl ⟨s, s.pending, step_of_fetch_settled (fetch_idle hpending), .idle⟩)
  | cons input rest =>
    cases input with
    | takeEvent => exact Or.inr (Or.inl ⟨_, rest, step_of_fetch_settled (fetch_takeEvent hpending), .event⟩)
    | line bs =>
      have hfetch := fetch_line hpending
      cases hwire : Decode.wire { s with pending := rest }.params bs with
      | some i =>
        simp only [fetchLine, hwire] at hfetch
        exact Or.inl ⟨i, rest, step_of_fetch_run hfetch⟩
      | none =>
        simp only [fetchLine, hwire] at hfetch
        exact Or.inr (Or.inl ⟨_, rest, step_of_fetch_settled hfetch, .line bs⟩)
    | request bs =>
      have hfetch := fetch_request hpending
      unfold fetchRequest at hfetch
      split at hfetch
      · exact Or.inl ⟨_, rest, step_of_fetch_run hfetch⟩
      · exact Or.inr (Or.inl ⟨_, rest, step_of_fetch_settled hfetch, .refused⟩)
      · exact Or.inr (Or.inr ⟨_, step_of_fetch_malformed hfetch⟩)

theorem TakesInput.params {s t : State} (h : TakesInput s t) : t.params = s.params := by
  cases h with
  | line bs => exact deliver_params s bs
  | _ => rfl

/-- Settles O59: the two operations that emit append to the queue, and the others leave it, as all do the parameters. -/
theorem eventsAppendAndParametersStay : Obligations.EventsAppendAndParametersStay := by
  constructor
  · intro i s t hexec hreset
    cases hi : emits i with
    | true =>
      obtain ⟨es, hes⟩ := (exec_queueGrown hi hexec).evq
      refine ⟨es, hes, fun _ => ?_⟩
      cases i with
      | escPoll st now => exact Or.inl ⟨st, now, rfl⟩
      | sesCycle now => exact Or.inr ⟨now, rfl⟩
      | _ => cases hi
    | false => exact ⟨[], by rw [(exec_sameQueue hi hreset hexec).evq, List.append_nil], fun h => absurd rfl h⟩
  · intro s t h
    rcases step_outcome s with ⟨i, rest, hstep⟩ | ⟨u, rest, hstep, hinput⟩ | ⟨e, hstep⟩ <;> rw [hstep] at h
    · exact (exec_params h :)
    · obtain rfl := Host.Outcome.next.inj h
      exact hinput.params
    · cases h

end Sys2Proof.Machine
end

section
/-! The legality table and the statuses of every operation (42_exchange_retry.md R226; 60_exceptions.md R382, R406), and what
the block does outside Polling (70_reset_and_hazards.md R432; 20_memory.md R79). -/

namespace Sys2Proof.Machine

/-! ### Refused operations -/

/-- The operations that are not legal in a state (42_exchange_retry.md R226). -/
def RefusedIn (i : Instr) (s : State) : Prop :=
  (i = .sesProbe ∧ s.sesState ≠ .closed) ∨
    ((i = .sesStart ∨ i = .sesClose) ∧ s.sesState ≠ .identified) ∨
    ((i = .sesStop ∨ (∃ now, i = .sesCycle now) ∨ ∃ st now, i = .escPoll st now) ∧ s.sesState ≠ .polling) ∨
    ((∃ cmd payload, i = .sesExchange cmd payload) ∧
      (s.sesState = .closed ∨ s.sesState = .identified ∨ s.portOpen = false))

theorem exchange_of_not_may {s : State} (h : s.mayExchange = false) (cmd payload : Bytes) :
    exchange cmd payload s = (s, .failed .illegal) := by
  simp only [exchange, h, Bool.false_eq_true, if_false]

theorem mayExchange_eq_false_iff (s : State) :
    s.mayExchange = false ↔ s.sesState = .closed ∨ s.sesState = .identified ∨ s.portOpen = false := by
  rw [← Bool.not_eq_true, mayExchange_iff]
  cases s.sesState <;> simp

theorem exec_refused {i : Instr} {s : State} (h : RefusedIn i s) : exec i s = .next s.refuse := by
  rcases h with ⟨rfl, hs⟩ | ⟨rfl | rfl, hs⟩ | ⟨rfl | ⟨now, rfl⟩ | ⟨st, now, rfl⟩, hs⟩ | ⟨⟨cmd, payload, rfl⟩, hs⟩
  · exact congrArg Host.Outcome.next (if_pos hs)
  · exact execSesStart_refused hs
  · exact execSesClose_refused hs
  · exact execSesStop_refused hs
  · exact execSesCycle_refused now hs
  · exact congrArg Host.Outcome.next (if_pos hs)
  · exact exec_sesExchange_of (exchange_of_not_may ((mayExchange_eq_false_iff s).2 hs) cmd payload)

/-- SES.PROBE: refused, or the port did not open, or the probe with the port open (42_exchange_retry.md R240). -/
theorem exec_sesProbe_cases {s t : State} (h : exec .sesProbe s = .next t) :
    (s.sesState ≠ .closed ∧ t = s.refuse) ∨
      (s.sesState = .closed ∧ s.openAnswer = false ∧
        t = { s.openPort.2 with devAvail := false }.complete .portError .none) ∨
      (s.sesState = .closed ∧ s.openAnswer = true ∧ t = probeOpened s.openPort.2) := by
  by_cases hs : s.sesState = .closed
  swap
  · exact Or.inl ⟨hs, (Host.Outcome.next.inj ((exec_refused (i := .sesProbe) (Or.inl ⟨rfl, hs⟩)).symm.trans h)).symm⟩
  obtain rfl := Host.Outcome.next.inj h
  rw [if_neg (not_not.2 hs), openPort_eq]
  cases hopen : s.openAnswer with
  | false => exact Or.inr (Or.inl ⟨hs, rfl, rfl⟩)
  | true => exact Or.inr (Or.inr ⟨hs, rfl, rfl⟩)

/-! ### The statuses of the session operations -/

/-- A state whose latched status is one of a list. -/
abbrev EndsIn (l : List Status) (t : State) : Prop := ∃ st ∈ l, t.lastErr = st.code

theorem EndsIn.mono {l l' : List Status} {t : State} (h : EndsIn l t) (hsub : l ⊆ l') : EndsIn l' t := by
  obtain ⟨st, hst, hcode⟩ := h
  exact ⟨st, hsub hst, hcode⟩

theorem EndsIn.mem {l : List Status} {t : State} {st : Status} (h : EndsIn l t) (hcode : t.lastErr = st.code) : st ∈ l := by
  obtain ⟨st', hst, hcode'⟩ := h
  rwa [status_code_injective (hcode.symm.trans hcode')]

theorem endsIn_complete (s : State) (st : Status) (r : Result) : EndsIn [st] (s.complete st r) :=
  ⟨st, List.mem_singleton_self st, rfl⟩

theorem probeIdentified_status (ident : Reply) (s : State) : EndsIn [.ok, .portError] (probeIdentified ident s) := by
  unfold probeIdentified
  split
  · exact ⟨.portError, by simp, rfl⟩
  · exact ⟨.ok, by simp, rfl⟩

theorem probeOpened_status (s : State) : EndsIn [.ok, .portError, .notFound] (probeOpened s) := by
  unfold probeOpened
  split
  · exact ⟨.portError, by simp, rfl⟩
  · exact ⟨.notFound, by simp, rfl⟩
  · split
    · exact (probeIdentified_status _ _).mono (by simp)
    · exact ⟨.notFound, by simp, rfl⟩

/-- The statuses of an exchange that is legal and fits its frame (60_exceptions.md R382). -/
def sentStatuses : List Status := [.ok, .exhausted, .timeout, .portError]

/-- The status an exchange latches: ILLEGAL where it is not legal, SizeError where no frame can be encoded. -/
theorem shown_status (cmd payload : Bytes) (s : State) :
    (s.mayExchange = false ∧ (exchange cmd payload s).2 = .failed .illegal) ∨
      (s.mayExchange = true ∧ encodeExchange s.params s.ebdAck cmd payload = none ∧
        (exchange cmd payload s).2 = .failed .sizeError) ∨
      (s.mayExchange = true ∧ ∃ st ∈ sentStatuses, (exchange cmd payload s).2.shown.1 = st.code) := by
  rcases exchange_cases cmd payload s with ⟨hm, hx⟩ | ⟨hm, hf, hx⟩ | ⟨f, hm, hf, -⟩
  · exact Or.inl ⟨hm, by rw [hx]⟩
  · exact Or.inr (Or.inl ⟨hm, hf, by rw [hx]⟩)
  · obtain ⟨hillegal, hsize, -⟩ := exchange_ends hm (by rw [hf]; exact nofun)
    refine Or.inr (Or.inr ⟨hm, ?_⟩)
    generalize (exchange cmd payload s).2 = e at hillegal hsize
    rcases e with r | ⟨_ | _ | _ | _ | last⟩
    · exact ⟨.ok, by simp [sentStatuses], rfl⟩
    · exact absurd rfl hillegal
    · exact absurd rfl hsize
    · exact ⟨.portError, by simp [sentStatuses], rfl⟩
    · exact ⟨.timeout, by simp [sentStatuses], rfl⟩
    · exact ⟨.exhausted, by simp [sentStatuses], rfl⟩

theorem exec_sesExchange_status {cmd payload : Bytes} {s t : State} (h : exec (.sesExchange cmd payload) s = .next t) :
    (s.mayExchange = false ∧ t.lastErr = Status.illegal.code) ∨
      (s.mayExchange = true ∧ EndsIn (.sizeError :: sentStatuses) t) := by
  obtain rfl := Host.Outcome.next.inj ((execSesExchange_eq cmd payload s).symm.trans h)
  rcases shown_status cmd payload s with ⟨hm, he⟩ | ⟨hm, -, he⟩ | ⟨hm, st, hst, he⟩
  · exact Or.inl ⟨hm, by rw [he]; rfl⟩
  · exact Or.inr ⟨hm, .sizeError, by simp, by rw [he]; rfl⟩
  · exact Or.inr ⟨hm, st, List.mem_cons_of_mem _ hst, he⟩

/-- A command parameter of a cycle fits no frame (log 16). -/
abbrev MisfitCommand (p : Params) : Prop :=
  ∃ ack, ∃ c ∈ [p.cmdPoll, p.cmdStack, p.cmdReturn], encodeExchange p ack c [] = none

/-- How a cycle ends that polls: with a status of an exchange, or, where its port is closed or a command misfits, with
ILLEGAL (60_exceptions.md R382; log 16, log 17). -/
abbrev CycleEnd (s t : State) : Prop :=
  EndsIn sentStatuses t ∨ (t.lastErr = Status.illegal.code ∧ (s.portOpen = true → MisfitCommand s.params))

theorem cycleFailed_end {c : Bytes} {s u : State} {e : ExchErr} (repoll : Bool) (hs : s.sesState = .polling)
    (hc : c ∈ [s.params.cmdPoll, s.params.cmdStack, s.params.cmdReturn]) (hx : exchange c [] s = (u, .failed e)) :
    CycleEnd s (u.cycleFailed e repoll) := by
  have hstatus := shown_status c [] s
  rw [hx] at hstatus
  rcases hstatus with ⟨hm, he⟩ | ⟨-, hf, he⟩ | ⟨-, hst⟩
  · obtain rfl := ExchEnd.failed.inj he
    refine Or.inr ⟨rfl, fun hopen => ?_⟩
    rw [mayExchange_of_polling hs hopen] at hm
    cases hm
  · obtain rfl := ExchEnd.failed.inj he
    exact Or.inr ⟨rfl, fun _ => ⟨s.ebdAck, c, hc, hf⟩⟩
  · left
    obtain ⟨st, hst, hcode⟩ := hst
    cases e with
    | illegal =>
      rw [← status_code_injective (a := .illegal) hcode] at hst
      exact absurd hst (by decide)
    | sizeError =>
      rw [← status_code_injective (a := .sizeError) hcode] at hst
      exact absurd hst (by decide)
    | portError | timeout | exhausted => exact ⟨st, hst, hcode⟩

theorem cycleCommand_end {cmd : EscCmd} {s : State} (hs : s.sesState = .polling) : CycleEnd s (cycleCommand cmd s) := by
  cases hc : commandOf s.params cmd with
  | none =>
    rw [cycleCommand_undecided hc]
    exact Or.inl ⟨.ok, by simp [sentStatuses], rfl⟩
  | some c =>
    obtain ⟨⟨u, e⟩, hx⟩ : ∃ ended, exchange c [] s = ended := ⟨_, rfl⟩
    cases e with
    | answer r =>
      rw [cycleCommand_answered hc hx]
      exact Or.inl ⟨.ok, by simp [sentStatuses], rfl⟩
    | failed e =>
      rw [cycleCommand_failed hc hx]
      refine cycleFailed_end true hs ?_ hx
      cases cmd <;> cases hc <;> simp

theorem cyclePoll_end {now : Word} {s : State} (hs : s.sesState = .polling) : CycleEnd s (cyclePoll now s) := by
  have hsession := exchange_sameSession (cmd := s.params.cmdPoll) (payload := []) (s := s)
  obtain ⟨⟨u, e⟩, hx⟩ : ∃ ended, exchange s.params.cmdPoll [] s = ended := ⟨_, rfl⟩
  have hparams := exchange_params hx
  rw [hx] at hsession
  cases e with
  | failed e =>
    rw [cyclePoll_failed now hx]
    exact cycleFailed_end false hs (by simp) hx
  | answer r =>
    rw [cyclePoll_answered now hx]
    have hu := hsession nofun
    have hkept := pollKept_poll u (interpret u.params r) now
    have hend := cycleCommand_end (cmd := (poll (interpret u.params r) now u).2)
      ((hkept.sesState.trans hu.sesState).trans hs)
    rwa [CycleEnd, hkept.portOpen, hu.portOpen, hkept.params.trans hparams] at hend

/-- SES.CYCLE: refused, stopped, or a cycle that polls (43_escrow.md R300). -/
theorem exec_sesCycle_cases {now : Word} {s t : State} (h : exec (.sesCycle now) s = .next t) :
    (s.sesState ≠ .polling ∧ t = s.refuse) ∨
      (s.sesState = .polling ∧ s.stopPoll = true ∧ t = s.complete .ok (.cycle true false)) ∨
      (s.sesState = .polling ∧ s.stopPoll = false ∧ t = cyclePoll now s) := by
  by_cases hs : s.sesState = .polling
  · cases hstop : s.stopPoll with
    | true =>
      exact Or.inr (Or.inl ⟨hs, rfl, (Host.Outcome.next.inj ((execSesCycle_stopped now hs hstop).symm.trans h)).symm⟩)
    | false =>
      exact Or.inr (Or.inr ⟨hs, rfl, (Host.Outcome.next.inj ((execSesCycle_running now hs hstop).symm.trans h)).symm⟩)
  · exact Or.inl ⟨hs, (Host.Outcome.next.inj ((execSesCycle_refused now hs).symm.trans h)).symm⟩

/-! ### The statuses of the other operations -/

theorem cctDecode_error {expect : Byte} {rx : Bytes} {e : DecErr} (h : cctDecode expect rx = .error e) : e ≠ .ackBit := by
  rw [cctDecode_eq] at h
  split_ifs at h <;> cases h <;> decide

theorem ebdDecode_error {p : Params} {expect : Bool} {rx : Bytes} {e : DecErr} (h : ebdDecode p expect rx = .error e) :
    e ≠ .address := by
  rw [ebdDecode_eq] at h
  split_ifs at h <;> cases h <;> decide

theorem wdgDecode_error {rx : Bytes} {e : DecErr} (h : wdgDecode rx = .error e) : e = .length := by
  have hne : ∀ cmd, rx ≠ wdgFrame cmd := by
    rintro cmd rfl
    rw [wdgDecode_frame] at h
    cases h
  rw [wdgDecode_of_ne hne] at h
  exact (Except.error.inj h).symm

theorem atVerdict_error {rx : Bytes} {e : DecErr} (h : atVerdict rx = .error e) : e = .length := by
  unfold atVerdict at h
  cases hdecode : atDecode rx with
  | none =>
    rw [hdecode] at h
    exact (Except.error.inj h).symm
  | some d =>
    rw [hdecode] at h
    cases h

theorem ccnDecode_failed {p : Params} {expect : Byte} {rx : Bytes} {e : DecErr} (h : ccnDecode p expect rx = .failed e) :
    e = .checksum ∨ e = .length := by
  unfold ccnDecode at h
  split at h
  · split at h <;> cases h
  · exact Or.inl (CcnDecoded.failed.inj h).symm
  · exact Or.inr (CcnDecoded.failed.inj h).symm

theorem encodeTo_status (s : State) (frame : Option Bytes) : EndsIn [.ok, .sizeError] (encodeTo s frame) := by
  rcases encodeTo_cases s frame with ⟨f, -, ht⟩ | ⟨-, ht⟩ <;> rw [ht]
  · exact ⟨.ok, by simp, rfl⟩
  · exact ⟨.sizeError, by simp, rfl⟩

theorem decodeTo_status {α : Type} {l : List Status} (s : State) (d : Except DecErr α) (fields : α → Result)
    (hok : .ok ∈ l) (herr : ∀ e, d = .error e → decErrStatus e ∈ l) : EndsIn l (decodeTo s (d.map fields)) := by
  cases d with
  | ok a => exact ⟨.ok, hok, rfl⟩
  | error e => exact ⟨decErrStatus e, herr e rfl, rfl⟩

/-- Every operation outside the session ends with a status of its row; FRM.WDG.ENC has SizeError beside its row where TXBUF
holds no watchdog frame (60_exceptions.md R382; log 26). -/
theorem exec_local_status {i : Instr} {s t : State} (hlocal : isLocal i = true) (hwire : isWire i = false)
    (h : exec i s = .next t) :
    EndsIn (allowedStatus i) t ∨ s.params.txCap < 4 ∧ t.lastErr = Status.sizeError.code := by
  cases i with
  | sysReset | sesProbe | sesStart | sesStop | sesClose | sesExchange | sesCycle | escPoll => cases hlocal
  | wireCctalk | wireCcnet | wireEbds | wireWatchdog | wireAt => cases hwire
  | chkS8Init | chkS8Upd | chkS8Fin | chkC16Init | chkC16Upd | chkC16Fin | chkX8Init | chkX8Upd | chkX8Fin | sesStopreq
    | escDberr | escCfg =>
    obtain rfl := Host.Outcome.next.inj h
    exact Or.inl ⟨.ok, List.mem_singleton_self _, rfl⟩
  | frmLoad bytes =>
    obtain rfl := Host.Outcome.next.inj h
    left
    split
    · exact ⟨.sizeError, by simp [allowedStatus], rfl⟩
    · exact ⟨.ok, by simp [allowedStatus], rfl⟩
  | frmCctEnc | frmCcnEnc | frmEbdEnc | atdEnc =>
    obtain rfl := Host.Outcome.next.inj h
    exact Or.inl (encodeTo_status _ _)
  | frmWdgEnc cmd =>
    obtain rfl := Host.Outcome.next.inj h
    by_cases hcap : s.params.txCap < 4
    · rw [wdgEncode, if_pos hcap]
      exact Or.inr ⟨hcap, rfl⟩
    · rw [wdgEncode, if_neg hcap]
      exact Or.inl ⟨.ok, List.mem_singleton_self _, rfl⟩
  | frmCctDec expect =>
    obtain ⟨rx, -, rfl⟩ := withRx_next.1 h
    refine Or.inl (decodeTo_status _ _ _ (by simp [allowedStatus]) fun e he => ?_)
    have hne := cctDecode_error he
    cases e <;> simp [allowedStatus, decErrStatus] at hne ⊢
  | frmEbdDec expect =>
    obtain ⟨rx, -, rfl⟩ := withRx_next.1 h
    refine Or.inl (decodeTo_status _ _ _ (by simp [allowedStatus]) fun e he => ?_)
    have hne := ebdDecode_error he
    cases e <;> simp [allowedStatus, decErrStatus] at hne ⊢
  | frmWdgDec =>
    obtain ⟨rx, -, rfl⟩ := withRx_next.1 h
    refine Or.inl (decodeTo_status _ _ _ (by simp [allowedStatus]) fun e he => ?_)
    rw [wdgDecode_error he]
    simp [allowedStatus, decErrStatus]
  | frmWdgChk =>
    obtain ⟨rx, -, rfl⟩ := withRx_next.1 h
    left
    split
    · exact ⟨.ok, by simp [allowedStatus], rfl⟩
    · exact ⟨.addressError, by simp [allowedStatus], rfl⟩
  | frmCcnDec expect =>
    obtain ⟨rx, hrx, -⟩ := withRx_next.1 h
    obtain rfl := Host.Outcome.next.inj ((exec_frmCcnDec hrx expect).symm.trans h)
    left
    split
    · exact ⟨.ok, by simp [allowedStatus], rfl⟩
    · exact ⟨.addressError, by simp [allowedStatus], rfl⟩
    next e he =>
      refine ⟨decErrStatus e, ?_, rfl⟩
      rcases ccnDecode_failed he with rfl | rfl <;> simp [allowedStatus, decErrStatus]
  | atdDec =>
    obtain ⟨rx, hrx, -⟩ := withRx_next.1 h
    obtain rfl := Host.Outcome.next.inj ((exec_atdDec hrx).symm.trans h)
    refine Or.inl (decodeTo_status _ _ _ (by simp [allowedStatus]) fun e he => ?_)
    rw [atVerdict_error he]
    simp [allowedStatus, decErrStatus]
  | atdUssd =>
    obtain ⟨rx, -, rfl⟩ := withRx_next.1 h
    left
    split
    · exact ⟨.notFound, by simp [allowedStatus], rfl⟩
    · exact ⟨.ok, by simp [allowedStatus], rfl⟩

theorem cycleEnd_status {s t : State} (h : CycleEnd s t) : EndsIn (.illegal :: sentStatuses) t := by
  rcases h with hsent | ⟨hcode, -⟩
  · exact hsent.mono (List.subset_cons_self _ _)
  · exact ⟨.illegal, List.mem_cons_self, hcode⟩

/-- The operations of the session, of the escrow unit's polls and SYS.RESET end with a status of their row. -/
theorem exec_session_status {i : Instr} {s t : State} (hlocal : isLocal i = false) (h : exec i s = .next t) :
    EndsIn (allowedStatus i) t := by
  cases i with
  | sysReset =>
    obtain rfl := Host.Outcome.next.inj ((exec_sysReset s).symm.trans h)
    exact ⟨.ok, by simp [allowedStatus], rfl⟩
  | sesProbe =>
    rcases exec_sesProbe_cases h with ⟨-, rfl⟩ | ⟨-, -, rfl⟩ | ⟨-, -, rfl⟩
    · exact ⟨.illegal, by simp [allowedStatus], rfl⟩
    · exact ⟨.portError, by simp [allowedStatus], rfl⟩
    · exact (probeOpened_status _).mono (by simp [allowedStatus])
  | sesStart =>
    rcases exec_sesStart_cases h with ⟨-, rfl⟩ | ⟨-, -, rfl⟩ | ⟨-, -, rfl⟩
    · exact ⟨.illegal, by simp [allowedStatus], rfl⟩
    · exact ⟨.portError, by simp [allowedStatus], rfl⟩
    · exact ⟨.ok, by simp [allowedStatus], rfl⟩
  | sesStop =>
    rcases exec_sesStop_cases h with ⟨-, rfl⟩ | ⟨-, rfl⟩
    · exact ⟨.illegal, by simp [allowedStatus], rfl⟩
    · exact ⟨.ok, by simp [allowedStatus], rfl⟩
  | sesClose =>
    rcases exec_sesClose_cases h with ⟨-, rfl⟩ | ⟨-, rfl⟩
    · exact ⟨.illegal, by simp [allowedStatus], rfl⟩
    · exact ⟨.ok, by simp [allowedStatus], rfl⟩
  | escPoll st now =>
    rcases exec_escPoll_cases h with ⟨-, rfl⟩ | ⟨-, rfl⟩
    · exact ⟨.illegal, by simp [allowedStatus], rfl⟩
    · exact ⟨.ok, by simp [allowedStatus], rfl⟩
  | sesExchange cmd payload =>
    rcases exec_sesExchange_status h with ⟨-, hcode⟩ | ⟨-, hsent⟩
    · exact ⟨.illegal, by simp [allowedStatus], hcode⟩
    · exact hsent.mono (by simp [sentStatuses, allowedStatus])
  | sesCycle now =>
    rcases exec_sesCycle_cases h with ⟨-, rfl⟩ | ⟨-, -, rfl⟩ | ⟨hs, -, rfl⟩
    · exact ⟨.illegal, by simp [allowedStatus], rfl⟩
    · exact ⟨.ok, by simp [allowedStatus], rfl⟩
    · exact (cycleEnd_status (cyclePoll_end hs)).mono (by simp [sentStatuses, allowedStatus])
  | _ => cases hlocal

/-- Settles O57: the rows of the operations outside the session and of those in it; the misfitting cycle is its exchange. -/
theorem statusesOfEachOperation : Obligations.StatusesOfEachOperation := by
  constructor
  · intro i s t hwire hcap h
    cases hlocal : isLocal i with
    | true => exact (exec_local_status hlocal hwire h).resolve_right fun ⟨hsmall, _⟩ => by omega
    | false => exact exec_session_status hlocal h
  · intro s now hs hstop hopen hmisfit
    have hx : exchange s.params.cmdPoll [] s = (s, .failed .sizeError) := by
      simp only [exchange, mayExchange_of_polling hs hopen, hmisfit, if_true]
    exact ⟨.cycle false false,
      (execSesCycle_running now hs hstop).trans (congrArg Host.Outcome.next (cyclePoll_failed now hx))⟩

/-! ### The legality table -/

theorem illegal_not_mem_of_local {i : Instr} (h : isLocal i = true) : .illegal ∉ allowedStatus i := by
  cases i with
  | sysReset | sesProbe | sesStart | sesStop | sesClose | sesExchange | sesCycle | escPoll => cases h
  | _ => simp [allowedStatus]

/-- Settles O33: refusals are read off the operations' first test; elsewhere only a misfitting cycle ends with ILLEGAL. -/
theorem refusedOutsideLegalState : Obligations.RefusedOutsideLegalState := by
  refine ⟨fun s i h => ⟨.none, exec_refused h⟩, ?_⟩
  intro s t i hwire hprobing hport hexec hcode
  have hnot : ∀ {l : List Status}, EndsIn l t → .illegal ∉ l → False := fun hend hmem => hmem (hend.mem hcode)
  cases hlocal : isLocal i with
  | true =>
    rcases exec_local_status hlocal hwire hexec with hend | ⟨-, hsize⟩
    · exact (hnot hend (illegal_not_mem_of_local hlocal)).elim
    · exact absurd (hsize.symm.trans hcode) (by decide)
  | false =>
    cases i with
    | sysReset => exact (hnot (exec_session_status rfl hexec) (by simp [allowedStatus])).elim
    | sesProbe =>
      rcases exec_sesProbe_cases hexec with ⟨hs, -⟩ | ⟨-, -, rfl⟩ | ⟨-, -, rfl⟩
      · exact Or.inl (Or.inl ⟨rfl, hs⟩)
      · exact (hnot (endsIn_complete _ _ _) (by decide)).elim
      · exact (hnot (probeOpened_status _) (by simp)).elim
    | sesStart =>
      rcases exec_sesStart_cases hexec with ⟨hs, -⟩ | ⟨-, -, rfl⟩ | ⟨-, -, rfl⟩
      · exact Or.inl (Or.inr (Or.inl ⟨Or.inl rfl, hs⟩))
      · exact (hnot (endsIn_complete _ _ _) (by decide)).elim
      · exact (hnot (endsIn_complete _ _ _) (by decide)).elim
    | sesStop =>
      rcases exec_sesStop_cases hexec with ⟨hs, -⟩ | ⟨-, rfl⟩
      · exact Or.inl (Or.inr (Or.inr (Or.inl ⟨Or.inl rfl, hs⟩)))
      · exact (hnot (endsIn_complete _ _ _) (by decide)).elim
    | sesClose =>
      rcases exec_sesClose_cases hexec with ⟨hs, -⟩ | ⟨-, rfl⟩
      · exact Or.inl (Or.inr (Or.inl ⟨Or.inr rfl, hs⟩))
      · exact (hnot (endsIn_complete _ _ _) (by decide)).elim
    | escPoll st now =>
      rcases exec_escPoll_cases hexec with ⟨hs, -⟩ | ⟨-, rfl⟩
      · exact Or.inl (Or.inr (Or.inr (Or.inl ⟨Or.inr (Or.inr ⟨st, now, rfl⟩), hs⟩)))
      · exact (hnot (endsIn_complete _ _ _) (by decide)).elim
    | sesExchange cmd payload =>
      rcases exec_sesExchange_status hexec with ⟨hm, -⟩ | ⟨-, hend⟩
      · exact Or.inl (Or.inr (Or.inr (Or.inr ⟨⟨cmd, payload, rfl⟩, (mayExchange_eq_false_iff s).1 hm⟩)))
      · exact (hnot hend (by simp [sentStatuses])).elim
    | sesCycle now =>
      rcases exec_sesCycle_cases hexec with ⟨hs, -⟩ | ⟨-, -, rfl⟩ | ⟨hs, hstop, rfl⟩
      · exact Or.inl (Or.inr (Or.inr (Or.inl ⟨Or.inr (Or.inl ⟨now, rfl⟩), hs⟩)))
      · exact (hnot (endsIn_complete _ _ _) (by decide)).elim
      · rcases cyclePoll_end hs with hend | ⟨-, hmisfit⟩
        · exact (hnot hend (by simp [sentStatuses])).elim
        · exact Or.inr ⟨⟨now, rfl⟩, hs, hstop, hmisfit (hport.2 hs)⟩
    | _ => cases hlocal

/-! ### Outside Polling -/

/-- A state outside Polling that has traced no more than another. -/
structure Untraced (s t : State) : Prop where
  session : t.sesState ≠ .polling
  trace : t.trace = s.trace

theorem tracedIn_eq_nil {s : State} (h : s.sesState ≠ .polling) (entries : List (Direction × Bytes)) :
    tracedIn s entries = [] :=
  if_neg h

theorem exchange_untraced (cmd payload : Bytes) {s t : State} (h : Untraced s t) :
    Untraced s (exchange cmd payload t).1 := by
  refine exchange_keeps (P := Untraced s) (fun _ _ h => ⟨h.session, h.trace⟩) ?attempt (fun _ h => ⟨h.session, h.trace⟩)
    cmd payload h
  case attempt =>
    intro f ack u h
    have hread : (received f u).trace = s.trace := by
      rw [received, tracedIn_eq_nil h.session, List.append_nil]
      exact h.trace
    have hwritten : (afterWrite f u).trace = s.trace := by
      rw [afterWrite_eq, tracedIn_eq_nil h.session, List.append_nil]
      exact h.trace
    exact attempt_state_cases ⟨nofun, hwritten⟩ ⟨h.session, hread⟩ fun _ _ _ _ _ _ => ⟨h.session, hread⟩

/-- The operations other than SES.PROBE send nothing while no session polls (70_reset_and_hazards.md R432). -/
theorem exec_sends_nothing {i : Instr} {s t : State} (hs : s.sesState = .closed ∨ s.sesState = .identified)
    (hprobe : i ≠ .sesProbe) (h : exec i s = .next t) : t.serialTx = s.serialTx := by
  have hpolling : s.sesState ≠ .polling := by rcases hs with hs | hs <;> rw [hs] <;> decide
  cases hlocal : isLocal i with
  | true => exact (exec_local hlocal h).serialTx
  | false =>
    cases i with
    | sysReset =>
      obtain rfl := Host.Outcome.next.inj ((exec_sysReset s).symm.trans h)
      rfl
    | sesProbe => exact absurd rfl hprobe
    | sesStart =>
      rcases exec_sesStart_cases h with ⟨-, rfl⟩ | ⟨-, -, rfl⟩ | ⟨-, -, rfl⟩
      · rfl
      · rw [openPort_eq]
        rfl
      · rw [openPort_eq]
        rfl
    | sesStop => rcases exec_sesStop_cases h with ⟨-, rfl⟩ | ⟨-, rfl⟩ <;> rfl
    | sesClose => rcases exec_sesClose_cases h with ⟨-, rfl⟩ | ⟨-, rfl⟩ <;> rfl
    | sesExchange cmd payload =>
      have hrefused : RefusedIn (.sesExchange cmd payload) s :=
        Or.inr (Or.inr (Or.inr ⟨⟨cmd, payload, rfl⟩, hs.imp_right Or.inl⟩))
      obtain rfl := Host.Outcome.next.inj ((exec_refused hrefused).symm.trans h)
      rfl
    | sesCycle now =>
      obtain rfl := Host.Outcome.next.inj ((execSesCycle_refused now hpolling).symm.trans h)
      rfl
    | escPoll st now =>
      rcases exec_escPoll_cases h with ⟨-, rfl⟩ | ⟨hp, -⟩
      · rfl
      · exact absurd hp hpolling
    | _ => cases hlocal

theorem exec_traces_nothing {i : Instr} {s t : State} (hs : s.sesState ≠ .polling) (h : exec i s = .next t) :
    t.trace = s.trace := by
  cases hlocal : isLocal i with
  | true => exact (exec_local hlocal h).trace
  | false =>
    cases i with
    | sysReset =>
      obtain rfl := Host.Outcome.next.inj ((exec_sysReset s).symm.trans h)
      rfl
    | sesProbe =>
      exact (exec_sesProbe_keeps (P := Untraced s) (fun cmd payload u _ => exchange_untraced cmd payload)
        (fun _ _ hses hu => ⟨hses, hu.trace⟩) (fun _ _ _ hu => ⟨hu.session, hu.trace⟩)
        (fun _ _ hu => ⟨hu.session, hu.trace⟩) (fun _ hu => ⟨hu.session, hu.trace⟩)
        (fun u hu => by rw [openPort_eq]; exact ⟨hu.session, hu.trace⟩) h ⟨hs, rfl⟩).trace
    | sesStart =>
      rcases exec_sesStart_cases h with ⟨-, rfl⟩ | ⟨-, -, rfl⟩ | ⟨-, -, rfl⟩
      · rfl
      · rw [openPort_eq]
        rfl
      · rw [openPort_eq]
        rfl
    | sesStop => rcases exec_sesStop_cases h with ⟨-, rfl⟩ | ⟨-, rfl⟩ <;> rfl
    | sesClose => rcases exec_sesClose_cases h with ⟨-, rfl⟩ | ⟨-, rfl⟩ <;> rfl
    | sesExchange cmd payload =>
      obtain ⟨st, r, rfl⟩ := exec_sesExchange_complete h
      exact (exchange_untraced cmd payload (s := s) ⟨hs, rfl⟩).trace
    | sesCycle now =>
      obtain rfl := Host.Outcome.next.inj ((execSesCycle_refused now hs).symm.trans h)
      rfl
    | escPoll st now =>
      rcases exec_escPoll_cases h with ⟨-, rfl⟩ | ⟨hp, -⟩
      · rfl
      · exact absurd hp hs
    | _ => cases hlocal

theorem exchange_portClosed (cmd payload : Bytes) {s : State} (h : s.portOpen = false) :
    (exchange cmd payload s).1.portOpen = false := by
  rw [exchange_of_not_may ((mayExchange_eq_false_iff s).2 (Or.inr (Or.inr h)))]
  exact h

theorem exec_port_stays_closed {i : Instr} {s t : State} (hp : s.portOpen = false) (hprobe : i ≠ .sesProbe)
    (hstart : i ≠ .sesStart) (h : exec i s = .next t) : t.portOpen = false := by
  cases hlocal : isLocal i with
  | true => exact (exec_local hlocal h).session.portOpen.trans hp
  | false =>
    cases i with
    | sysReset =>
      obtain rfl := Host.Outcome.next.inj ((exec_sysReset s).symm.trans h)
      rfl
    | sesProbe => exact absurd rfl hprobe
    | sesStart => exact absurd rfl hstart
    | sesStop =>
      rcases exec_sesStop_cases h with ⟨-, rfl⟩ | ⟨-, rfl⟩
      · exact hp
      · rfl
    | sesClose => rcases exec_sesClose_cases h with ⟨-, rfl⟩ | ⟨-, rfl⟩ <;> exact hp
    | sesExchange cmd payload =>
      obtain ⟨st, r, rfl⟩ := exec_sesExchange_complete h
      exact exchange_portClosed cmd payload hp
    | sesCycle now =>
      exact exec_sesCycle_keeps (P := fun u => u.portOpen = false) (fun c u _ => exchange_portClosed c [])
        (fun _ _ _ hu => hu) (fun st now u _ hu => (pollKept_poll u st now).portOpen.trans hu) h hp
    | escPoll st now =>
      rcases exec_escPoll_cases h with ⟨-, rfl⟩ | ⟨-, rfl⟩
      · exact hp
      · exact (pollKept_poll s st now).portOpen.trans hp
    | _ => cases hlocal

/-- Settles O58, part by part. -/
theorem silentOutsidePolling : Obligations.SilentOutsidePolling := by
  intro i s t h
  exact ⟨fun hs hprobe => exec_sends_nothing hs hprobe h, fun hs => exec_traces_nothing hs h,
    fun hp hprobe hstart => exec_port_stays_closed hp hprobe hstart h⟩

end Sys2Proof.Machine
end

section
/-! The invariant: it holds at power-on, every step keeps it, and no step faults under it (10_state.md; 20_memory.md R60;
42_exchange_retry.md R221). A probe, which passes through states the invariant excludes, ends in one it allows. -/

namespace Sys2Proof.Machine

/-! ### The two parts of the invariant under the small writes -/

/-- The registers that `Quiet` speaks of, but for the last status. -/
def quietPart (s : State) : Params × Memory × Nat × Memory × Nat × RtyState × Byte × Byte × Bool × Bool × List Event :=
  (s.params, s.txbuf, s.txLen, s.rxbuf, s.rxLen, s.rtyState, s.nakCnt, s.errCnt, s.fNakExh, s.fErrExh, s.evq)

theorem Quiet.congr {s t : State} (h : Quiet s) (heq : quietPart t = quietPart s) (hcode : t.lastErr.toNat ≤ 0x0A) :
    Quiet t := by
  simp only [quietPart, Prod.mk.injEq] at heq
  obtain ⟨hparams, htxbuf, htxLen, hrxbuf, hrxLen, hrty, hnak, herr, hfNak, hfErr, hevq⟩ := heq
  constructor
  case code => exact hcode
  case bounds => rw [hparams]; exact h.bounds
  case tx => rw [htxbuf, htxLen, hparams]; exact h.tx
  case rx => rw [hrxbuf, hrxLen, hparams]; exact h.rx
  case rtyIdle => rw [hrty]; exact h.rtyIdle
  case nak => rw [hnak, hparams]; exact h.nak
  case err => rw [herr, hparams]; exact h.err
  case exhausted => rw [hfNak, hfErr]; exact h.exhausted
  case events => rw [hevq]; exact h.events

theorem quiet_complete (st : Status) (r : Result) {s : State} (h : Quiet s) : Quiet (s.complete st r) :=
  h.congr rfl (status_code_le st)

theorem settled_complete (st : Status) (r : Result) {s : State} (h : Settled s) : Settled (s.complete st r) :=
  SameSession.settled (by constructor <;> rfl) h.line h

theorem inv_complete (st : Status) (r : Result) {s : State} (h : Inv s) : Inv (s.complete st r) := by
  rw [inv_iff] at h ⊢
  exact ⟨quiet_complete st r h.1, settled_complete st r h.2⟩

/-- The operations outside the session, and bytes of the device. -/
theorem LocalKept.inv {i : Instr} {s t : State} (hkept : LocalKept i s t) (h : Inv s) : Inv t := by
  obtain ⟨hquiet, hsettled⟩ := (inv_iff s).1 h
  refine (inv_iff t).2 ⟨?quiet, hkept.session.settled ?line hsettled⟩
  case line =>
    intro hclosed
    have hs : s.portOpen = false := hkept.session.portOpen.symm.trans hclosed
    exact (hkept.line hs).trans (hsettled.line hs)
  case quiet =>
    constructor
    case bounds => rw [hkept.params]; exact hquiet.bounds
    case tx => rw [hkept.params]; exact hkept.tx hquiet.tx
    case rx => rw [hkept.params]; exact hkept.rx hquiet.rx
    case rtyIdle => rw [hkept.rtyState]; exact hquiet.rtyIdle
    case nak => rw [hkept.nakCnt, hkept.params]; exact hquiet.nak
    case err => rw [hkept.errCnt, hkept.params]; exact hquiet.err
    case exhausted => rw [hkept.fNakExh, hkept.fErrExh]; exact hquiet.exhausted
    case code => exact hkept.code hquiet.code
    case events => rw [hkept.evq]; exact hquiet.events

/-! ### Power-on and reset -/

theorem settled_of_closed {s : State} (hs : s.sesState = .closed) (hport : s.portOpen = false) (hline : s.serialRx = [])
    (hesc : EscCleared s) : Settled s := by
  have ⟨_, _, _, hescrowed, _, hpending⟩ := hesc
  constructor
  case notProbing => simp [hs]
  case port => simp [hs, hport]
  case line => exact fun _ => hline
  case avail => exact absurd hs
  case escIdle | escFresh => exact fun _ => hesc
  case escCommand => simp [hescrowed]
  case escPending => simp [hpending]

/-- The registers at their reset values, with nothing unread on the line. -/
theorem inv_resetRegisters {s : State} (hbounds : ParamsBoundsOk s.params) :
    Inv { s.resetRegisters with serialRx := [] } := by
  refine (inv_iff _).2 ⟨?quiet, settled_of_closed rfl rfl rfl ⟨rfl, rfl, rfl, rfl, rfl, rfl⟩⟩
  case quiet =>
    constructor
    case bounds => exact hbounds
    case tx | rx => exact ⟨rfl, rfl, Nat.zero_le _⟩
    case rtyIdle => rfl
    case nak | err | code => exact Nat.zero_le _
    case exhausted => simp [State.resetRegisters]
    case events => simp [State.resetRegisters]

theorem defaultRetryBound_mem (p : Proto) : 1 ≤ Config.defaultRetryBound p ∧ Config.defaultRetryBound p ≤ 255 := by
  cases p <;> decide

/-- Settles O54: power-on is a reset of the registers, and the default bounds fit for every family. -/
theorem invariantAtPowerOn : Obligations.InvariantAtPowerOn :=
  inv_resetRegisters (s := State.reset) ⟨defaultRetryBound_mem _, defaultRetryBound_mem _⟩

/-! ### How a probe ends -/

/-- The follow-ups end with the port torn down, or with the device as available as before. -/
theorem followups_session (pairs : List (Bytes × Bytes)) (replies : List ExchEnd) (s : State) :
    ((followups pairs replies s).2 = none ∧ TornDown (followups pairs replies s).1) ∨
      (∃ ends, (followups pairs replies s).2 = some ends) ∧ (followups pairs replies s).1.devAvail = s.devAvail := by
  induction pairs generalizing replies s with
  | nil => exact Or.inr ⟨⟨replies, rfl⟩, rfl⟩
  | cons pair rest ih =>
    have hends := exchange_session_cases pair.1 pair.2 { s with sesState := .probing }
    unfold followups
    split <;> rename_i hx <;> rw [hx] at hends
    · rcases hends with ⟨-, htorn⟩ | ⟨hport, -⟩
      · exact Or.inl ⟨rfl, htorn⟩
      · exact absurd rfl hport
    next hport =>
      rcases hends with ⟨htorn, -⟩ | ⟨-, hsession⟩
      · exact (hport htorn).elim
      · rw [← hsession.devAvail]
        exact ih _ _

/-- A probe ended: the port closed, and the device identified, or unavailable (42_exchange_retry.md R240). -/
structure ProbeEnd (t : State) : Prop where
  portOpen : t.portOpen = false
  line : t.serialRx = []
  outcome : (t.lastErr = 0x00 ∧ t.sesState = .identified ∧ t.devAvail = true) ∨
    ((t.lastErr = 0x07 ∨ t.lastErr = 0x08) ∧ t.sesState = .closed ∧ t.devAvail = false)

theorem probeEnd_of_tornDown {s : State} (h : TornDown s) (info : Result) : ProbeEnd (s.complete .portError info) :=
  ⟨h.portOpen, h.line, Or.inr ⟨Or.inl rfl, h.sesState, h.devAvail⟩⟩

theorem probeNotFound_end (s : State) : ProbeEnd s.probeNotFound := ⟨rfl, rfl, Or.inr ⟨Or.inr rfl, rfl, rfl⟩⟩

theorem probeIdentified_end (ident : Reply) (s : State) : ProbeEnd (probeIdentified ident s) := by
  have hsession := followups_session s.params.probeFollowups [] { s with sesState := .identified, devAvail := true }
  unfold probeIdentified
  split <;> rename_i hf <;> rw [hf] at hsession
  · rcases hsession with ⟨-, htorn⟩ | ⟨⟨_, hsome⟩, -⟩
    · exact probeEnd_of_tornDown htorn .none
    · cases hsome
  · rcases hsession with ⟨hnone, -⟩ | ⟨-, havail⟩
    · cases hnone
    · exact ⟨rfl, rfl, Or.inl ⟨rfl, rfl, havail⟩⟩

theorem probeOpened_end (s : State) : ProbeEnd (probeOpened s) := by
  have hends := exchange_session_cases (identCommand s.params) [] { s with sesState := .probing }
  unfold probeOpened
  split <;> rename_i hx <;> rw [hx] at hends
  · rcases hends with ⟨-, htorn⟩ | ⟨hport, -⟩
    · exact probeEnd_of_tornDown htorn .none
    · exact absurd rfl hport
  · exact probeNotFound_end _
  · split
    · exact probeIdentified_end _ _
    · exact probeNotFound_end _

theorem sesProbe_end {s t : State} (h : Inv s) (hs : s.sesState = .closed) (hexec : exec .sesProbe s = .next t) :
    ProbeEnd t := by
  have hport : s.portOpen = false := by
    rw [← Bool.not_eq_true, h.port, hs]
    decide
  rcases exec_sesProbe_cases hexec with ⟨hn, -⟩ | ⟨-, hopen, rfl⟩ | ⟨-, -, rfl⟩
  · exact absurd hs hn
  · rw [openPort_eq, hopen]
    exact ⟨hport, h.line hport, Or.inr ⟨Or.inl rfl, hs, rfl⟩⟩
  · exact probeOpened_end _

/-- What a probe leaves of the escrow unit: its registers cleared, its limits, the database flag and EVQ as they were. -/
structure EscUntouched (s t : State) : Prop where
  cleared : EscCleared t
  maxSum : t.maxSum = s.maxSum
  rejectAboveMax : t.rejectAboveMax = s.rejectAboveMax
  hasDbError : t.hasDbError = s.hasDbError
  evq : t.evq = s.evq

theorem exchange_escUntouched (cmd payload : Bytes) {s t : State} (h : EscUntouched s t) :
    EscUntouched s (exchange cmd payload t).1 := by
  have hkept := exchange_kept cmd payload t
  refine ⟨?_, hkept.maxSum.trans h.maxSum, hkept.rejectAboveMax.trans h.rejectAboveMax,
    hkept.hasDbError.trans h.hasDbError, hkept.evq.trans h.evq⟩
  rcases exchange_session_cases cmd payload t with ⟨-, htorn⟩ | ⟨-, hsession⟩
  · exact htorn.esc
  · obtain ⟨hsum, hovf, hprev, hescrowed, hcmd, hpend⟩ := h.cleared
    exact ⟨hsession.accSum.trans hsum, hsession.fSumOvf.trans hovf, hsession.escPrev.trans hprev,
      hsession.escrowed.trans hescrowed, hsession.lastCmd.trans hcmd, hsession.pendAcc.trans hpend⟩

theorem sesProbe_escUntouched {s t : State} (h : EscCleared s) (hexec : exec .sesProbe s = .next t) :
    EscUntouched s t :=
  exec_sesProbe_keeps (P := EscUntouched s) (fun cmd payload _ _ => exchange_escUntouched cmd payload)
    (fun _ _ _ hu => ⟨hu.cleared, hu.maxSum, hu.rejectAboveMax, hu.hasDbError, hu.evq⟩)
    (fun _ _ _ hu => ⟨hu.cleared, hu.maxSum, hu.rejectAboveMax, hu.hasDbError, hu.evq⟩)
    (fun _ _ hu => ⟨hu.cleared, hu.maxSum, hu.rejectAboveMax, hu.hasDbError, hu.evq⟩)
    (fun _ hu => ⟨hu.cleared, hu.maxSum, hu.rejectAboveMax, hu.hasDbError, hu.evq⟩)
    (fun u hu => by
      rw [openPort_eq]
      exact ⟨hu.cleared, hu.maxSum, hu.rejectAboveMax, hu.hasDbError, hu.evq⟩)
    hexec ⟨h, rfl, rfl, rfl, rfl⟩

theorem sesProbe_quiet {s t : State} (h : Quiet s) (hexec : exec .sesProbe s = .next t) : Quiet t :=
  exec_sesProbe_keeps (P := Quiet) (fun cmd payload _ _ => exchange_quiet cmd payload)
    (fun _ _ _ hu => hu.congr rfl hu.code) quiet_complete (fun _ _ hu => hu.congr rfl hu.code)
    (fun _ hu => hu.congr rfl hu.code) (fun u hu => by rw [openPort_eq]; exact hu.congr rfl hu.code) hexec h

theorem ProbeEnd.settled {t : State} (h : ProbeEnd t) (hesc : EscCleared t) : Settled t := by
  rcases h.outcome with ⟨-, hs, havail⟩ | ⟨-, hs, -⟩
  · have ⟨_, _, _, hescrowed, _, hpending⟩ := hesc
    constructor
    case notProbing => simp [hs]
    case port => simp [hs, h.portOpen]
    case line => exact fun _ => h.line
    case avail => exact fun _ => havail
    case escIdle | escFresh => exact fun _ => hesc
    case escCommand => simp [hescrowed]
    case escPending => simp [hpending]
  · exact settled_of_closed hs h.portOpen h.line hesc

theorem sesProbe_inv {s t : State} (h : Inv s) (hexec : exec .sesProbe s = .next t) : Inv t := by
  by_cases hs : s.sesState = .closed
  · exact (inv_iff t).2 ⟨sesProbe_quiet ((inv_iff s).1 h).1 hexec, (sesProbe_end h hs hexec).settled
      (sesProbe_escUntouched (h.escIdle (by rw [hs]; decide)) hexec).cleared⟩
  · obtain rfl := Host.Outcome.next.inj ((exec_refused (i := .sesProbe) (Or.inl ⟨rfl, hs⟩)).symm.trans hexec)
    exact inv_complete _ _ h

/-! ### Every operation and every step -/

theorem sesStart_inv {s t : State} (h : Inv s) (hexec : exec .sesStart s = .next t) : Inv t := by
  obtain ⟨hquiet, hsettled⟩ := (inv_iff s).1 h
  rcases exec_sesStart_cases hexec with ⟨-, rfl⟩ | ⟨hs, hopen, rfl⟩ | ⟨hs, hopen, rfl⟩
  · exact inv_complete _ _ h
  · have hport : s.portOpen = false := by
      rw [← Bool.not_eq_true, h.port, hs]
      decide
    rw [openPort_eq, hopen]
    exact inv_complete _ _ ((inv_iff _).2 ⟨hquiet.congr rfl hquiet.code,
      settled_of_closed rfl hport (h.line hport) (h.escIdle (by rw [hs]; decide))⟩)
  · have havail : s.devAvail = true := h.avail (by rw [hs]; decide)
    rw [openPort_eq, hopen]
    refine inv_complete _ _ ((inv_iff _).2 ⟨hquiet.congr rfl hquiet.code, ?_⟩)
    constructor
    case notProbing => exact nofun
    case port => exact iff_of_true rfl rfl
    case line | escCommand | escPending => exact nofun
    case avail => exact fun _ => havail
    case escIdle | escFresh => exact fun _ => escReset_cleared _

theorem exchange_inv (cmd payload : Bytes) {s : State} (h : Inv s) : Inv (exchange cmd payload s).1 := by
  obtain ⟨hquiet, hsettled⟩ := (inv_iff s).1 h
  by_cases hs : s.sesState = .polling
  · exact (inv_iff _).2 ⟨exchange_quiet cmd payload hquiet, exchange_settled cmd payload h.bounds hs hsettled⟩
  · have hclosed : s.portOpen = false := by
      rw [← Bool.not_eq_true, h.port]
      exact hs
    rw [exchange_of_not_may ((mayExchange_eq_false_iff s).2 (Or.inr (Or.inr hclosed)))]
    exact h

theorem poll_inv (st : PollState) (now : Word) {s : State} (hs : s.sesState = .polling) (h : Inv s) :
    Inv (poll st now s).1 := by
  obtain ⟨hquiet, hsettled⟩ := (inv_iff s).1 h
  exact (inv_iff _).2 ⟨poll_quiet st now hquiet, poll_settled st now hs hsettled⟩

theorem exec_inv {i : Instr} {s t : State} (h : Inv s) (hexec : exec i s = .next t) : Inv t := by
  cases hlocal : isLocal i with
  | true => exact (exec_local hlocal hexec).inv h
  | false =>
    have hquiet := ((inv_iff s).1 h).1
    cases i with
    | sysReset =>
      obtain rfl := Host.Outcome.next.inj ((exec_sysReset s).symm.trans hexec)
      have hline : (if s.portOpen then [] else s.serialRx) = [] := by
        cases hopen : s.portOpen with
        | true => rfl
        | false => exact h.line hopen
      rw [hline]
      exact inv_complete _ _ (inv_resetRegisters h.bounds)
    | sesProbe => exact sesProbe_inv h hexec
    | sesStart => exact sesStart_inv h hexec
    | sesStop =>
      rcases exec_sesStop_cases hexec with ⟨-, rfl⟩ | ⟨-, rfl⟩
      · exact inv_complete _ _ h
      · exact inv_complete _ _ ((inv_iff _).2 ⟨hquiet.congr rfl hquiet.code,
          settled_of_closed rfl rfl rfl (escReset_cleared _)⟩)
    | sesClose =>
      rcases exec_sesClose_cases hexec with ⟨-, rfl⟩ | ⟨hs, rfl⟩
      · exact inv_complete _ _ h
      · have hport : s.portOpen = false := by
          rw [← Bool.not_eq_true, h.port, hs]
          decide
        exact inv_complete _ _ ((inv_iff _).2 ⟨hquiet.congr rfl hquiet.code,
          settled_of_closed rfl hport (h.line hport) (h.escIdle (by rw [hs]; decide))⟩)
    | sesExchange cmd payload =>
      obtain ⟨st, r, rfl⟩ := exec_sesExchange_complete hexec
      exact inv_complete _ _ (exchange_inv cmd payload h)
    | sesCycle now =>
      exact exec_sesCycle_keeps (fun c s _ => exchange_inv c []) (fun st r _ => inv_complete st r)
        (fun st now s => poll_inv st now) hexec h
    | escPoll st now =>
      rcases exec_escPoll_cases hexec with ⟨-, rfl⟩ | ⟨hs, rfl⟩
      · exact inv_complete _ _ h
      · exact inv_complete _ _ (poll_inv st now hs h)
    | _ => cases hlocal

theorem inv_pending {s : State} (h : Inv s) (rest : List Input) : Inv { s with pending := rest } := by
  obtain ⟨hquiet, hsettled⟩ := (inv_iff s).1 h
  exact (inv_iff _).2 ⟨hquiet.congr rfl hquiet.code, SameSession.settled (by constructor <;> rfl) hsettled.line hsettled⟩

theorem TakesInput.inv {s t : State} (h : TakesInput s t) (hinv : Inv s) : Inv t := by
  cases h with
  | idle => exact hinv
  | refused => exact inv_complete _ _ hinv
  | line bs => exact (localKept_deliver (i := .sysReset) bs).inv hinv
  | event =>
    obtain ⟨hquiet, hsettled⟩ := (inv_iff s).1 hinv
    refine (inv_iff _).2 ⟨?_, SameSession.settled (by constructor <;> rfl) hsettled.line hsettled⟩
    exact ⟨hquiet.bounds, hquiet.tx, hquiet.rx, hquiet.rtyIdle, hquiet.nak, hquiet.err, hquiet.exhausted, hquiet.code,
      fun e he => hquiet.events e (List.mem_of_mem_tail he)⟩

/-- Settles O55: the step is an operation, or the taking of an input. -/
theorem stepKeepsInvariant : Obligations.StepKeepsInvariant := by
  intro s t h hstep
  rcases step_outcome s with ⟨i, rest, heq⟩ | ⟨u, rest, heq, hinput⟩ | ⟨e, heq⟩ <;> rw [heq] at hstep
  · exact exec_inv (inv_pending h rest) hstep
  · obtain rfl := Host.Outcome.next.inj hstep
    exact hinput.inv (inv_pending h rest)
  · cases hstep

/-- Settles O56: only a byte of RXBUF that holds no value could stop an operation, and the buffer agrees with its length. -/
theorem noFaultUnderInvariant : Obligations.NoFaultUnderInvariant := by
  intro s h
  rcases step_outcome s with ⟨i, rest, heq⟩ | ⟨u, rest, heq, -⟩ | ⟨e, heq⟩
  · obtain ⟨rx, hrx, -⟩ := bufferOk_readable h.rx
    obtain ⟨t, ht⟩ := exec_next i (s := { s with pending := rest }) hrx
    exact Or.inl ⟨t, heq.trans ht⟩
  · exact Or.inl ⟨u, heq⟩
  · exact Or.inr ⟨e, heq⟩

end Sys2Proof.Machine
end

section
/-! The probe, whole: what its identification and its follow-ups make of it, in terms of the exchanges it is made of
(42_exchange_retry.md R240 to R247). -/

namespace Sys2Proof.Machine

/-! ### The probe by its identification -/

theorem sesProbe_eq_probeOpened {s : State} (hs : s.sesState = .closed) (hopen : s.openAnswer = true) :
    exec .sesProbe s = .next (probeOpened s.openPort.2) := by
  refine congrArg Host.Outcome.next ((if_neg (not_not.2 hs)).trans ?_)
  rw [openPort_eq, hopen]

theorem probeOpened_openPort {s : State} (hopen : s.openAnswer = true) : probeOpened s.openPort.2 =
    match exchange (identCommand s.params) [] s.probing with
    | (u, .failed .portError) => u.complete .portError .none
    | (u, .failed _) => u.probeNotFound
    | (u, .answer d) => if signature u.params d then probeIdentified d u else u.probeNotFound := by
  rw [openPort_eq, hopen]
  rfl

section
variable {s u : State} (hs : s.sesState = .closed) (hopen : s.openAnswer = true)
include hs hopen

theorem sesProbe_of_portError (hx : exchange (identCommand s.params) [] s.probing = (u, .failed .portError)) :
    exec .sesProbe s = .next (u.complete .portError .none) := by
  rw [sesProbe_eq_probeOpened hs hopen, probeOpened_openPort hopen, hx]

theorem sesProbe_of_failed {e : ExchErr} (he : e ≠ .portError)
    (hx : exchange (identCommand s.params) [] s.probing = (u, .failed e)) : exec .sesProbe s = .next u.probeNotFound := by
  rw [sesProbe_eq_probeOpened hs hopen, probeOpened_openPort hopen, hx]
  cases e with
  | portError => exact absurd rfl he
  | _ => rfl

theorem sesProbe_of_answer {d : Reply} (hx : exchange (identCommand s.params) [] s.probing = (u, .answer d)) :
    exec .sesProbe s = .next (if signature s.params d then probeIdentified d u else u.probeNotFound) := by
  have hparams : u.params = s.params := exchange_params (s := s.probing) hx
  rw [sesProbe_eq_probeOpened hs hopen, probeOpened_openPort hopen, hx, ← hparams]

end

/-- The statuses of an identification that ends the probe with NotFound, or the answer without the signature. -/
abbrev LacksIdentity (p : Params) (e : ExchEnd) : Prop :=
  e.shown.1 = 0x05 ∨ e.shown.1 = 0x06 ∨ e.shown.1 = 0x09 ∨
    (e.shown.1 = 0x00 ∧ ∀ d, e.shown.2 = .reply d → signature p d = false)

theorem LacksIdentity.signature {p : Params} {d : Reply} (h : LacksIdentity p (.answer d)) : signature p d = false := by
  obtain ⟨-, hsig⟩ := h.resolve_left nofun |>.resolve_left nofun |>.resolve_left nofun
  exact hsig d rfl

theorem LacksIdentity.ne_portError {p : Params} {e : ExchErr} (h : LacksIdentity p (.failed e)) : e ≠ .portError := by
  rintro rfl
  simp [LacksIdentity, ExchEnd.shown, ExchErr.status, Status.code] at h

/-- Settles O36: the ends of the probe, and which end its identification leads to. -/
theorem probeAlwaysClosesPort : Obligations.ProbeAlwaysClosesPort := by
  refine ⟨?ends, ?notOpened, ?opened⟩
  case ends =>
    intro s t h hs hexec
    have hpolling : s.sesState ≠ .polling := by rw [hs]; decide
    have hend := sesProbe_end h hs hexec
    have hesc := sesProbe_escUntouched (h.escIdle hpolling) hexec
    exact ⟨hend.portOpen, hend.line, exec_traces_nothing hpolling hexec, hesc.evq, hesc.maxSum, hesc.rejectAboveMax,
      hesc.hasDbError, hesc.cleared, hend.outcome⟩
  case notOpened =>
    intro s hs hopen
    refine ⟨.none, congrArg Host.Outcome.next ((if_neg (not_not.2 hs)).trans ?_)⟩
    rw [openPort_eq, hopen]
    rfl
  case opened =>
    intro s a hs hopen hexec
    obtain ⟨u, e, hx, rfl⟩ := exchange_of_exec hexec
    refine ⟨fun hcode => ?portError, fun hlacks : LacksIdentity s.params e => ?notFound⟩
    case portError =>
      obtain rfl := (shown_portError_iff e).1 hcode
      exact ⟨.none, (sesProbe_of_portError hs hopen hx).trans rfl⟩
    case notFound =>
      refine ⟨.none, ?_⟩
      cases e with
      | failed e => exact sesProbe_of_failed hs hopen hlacks.ne_portError hx
      | answer d => exact (sesProbe_of_answer hs hopen hx).trans (by rw [hlacks.signature]; rfl)

/-! ### The follow-ups -/

/-- A state as the exchanges of a probe see it: they set the session state themselves, and carry the latched status and
result along. -/
def SameProbe (x y : State) : Prop := ∃ ses code r, x = { y with sesState := ses }.latched code r

/-- The follow-ups as SES.EXCHANGE operations, and as the probe runs them: ended by a PortError both, or with the same
replies after `replies`. -/
inductive FollowedAlike (replies : List ExchEnd) :
    State × Option (List (Byte × Result)) → State × Option (List ExchEnd) → Prop
  | torn (y : State) (code : Byte) (r : Result) : FollowedAlike replies (y.latched code r, none) (y, none)
  | done {x y : State} (more : List ExchEnd) (h : SameProbe x y) :
    FollowedAlike replies (x, some (more.map ExchEnd.shown)) (y, some (replies ++ more))

theorem followups_cons {cmd payload : Bytes} {s u : State} {e : ExchEnd} (rest : List (Bytes × Bytes))
    (replies : List ExchEnd) (hx : exchange cmd payload { s with sesState := .probing } = (u, e)) :
    followups ((cmd, payload) :: rest) replies s =
      if e = .failed .portError then (u, none) else followups rest (replies ++ [e]) u := by
  rw [followups, hx]
  rcases e with _ | ⟨_ | _ | _ | _ | _⟩ <;> rfl

theorem followupRun_cons {cmd payload : Bytes} {x y u : State} {e : ExchEnd} (rest : List (Bytes × Bytes))
    (h : SameProbe x y) (hx : exchange cmd payload { y with sesState := .probing } = (u, e)) :
    followupRun ((cmd, payload) :: rest) x =
      if e = .failed .portError then (u.latched e.shown.1 e.shown.2, none)
      else ((followupRun rest (u.latched e.shown.1 e.shown.2)).1,
        (followupRun rest (u.latched e.shown.1 e.shown.2)).2.map (e.shown :: ·)) := by
  obtain ⟨ses, code, r, rfl⟩ := h
  have hexec : exec (.sesExchange cmd payload) { ({ y with sesState := ses }.latched code r) with sesState := .probing } =
      .next (u.latched e.shown.1 e.shown.2) := by
    refine (execSesExchange_eq cmd payload ({ y with sesState := .probing }.latched code r)).trans ?_
    rw [exchange_latched, hx]
    rfl
  have hcode : (u.latched e.shown.1 e.shown.2).lastErr = Status.portError.code ↔ e = .failed .portError :=
    shown_portError_iff e
  simp only [followupRun, hexec, hcode]
  rfl

theorem followupRun_followups (pairs : List (Bytes × Bytes)) (replies : List ExchEnd) {x y : State}
    (h : SameProbe x y) : FollowedAlike replies (followupRun pairs x) (followups pairs replies y) := by
  induction pairs generalizing replies x y with
  | nil => simpa [followupRun, followups] using FollowedAlike.done (replies := replies) [] h
  | cons pair rest ih =>
    obtain ⟨cmd, payload⟩ := pair
    obtain ⟨⟨u, e⟩, hx⟩ : ∃ ended, exchange cmd payload { y with sesState := .probing } = ended := ⟨_, rfl⟩
    rw [followups_cons rest replies hx, followupRun_cons rest h hx]
    split
    · exact .torn u _ _
    · have hnext := ih (replies ++ [e]) (x := u.latched e.shown.1 e.shown.2) (y := u) ⟨u.sesState, _, _, rfl⟩
      generalize followupRun rest (u.latched e.shown.1 e.shown.2) = run at hnext ⊢
      generalize followups rest (replies ++ [e]) u = ends at hnext ⊢
      cases hnext with
      | torn y code r => exact .torn y code r
      | done more hsame => simpa using FollowedAlike.done (replies := replies) (e :: more) hsame

/-- What is left of a probe after its identification: the follow-ups, one after the other (42_exchange_retry.md R247). -/
theorem probeIdentified_followupRun (u : State) (d : Reply) (code : Byte) (r : Result) :
    (∀ t, followupRun u.params.probeFollowups { u.latched code r with devAvail := true } = (t, none) →
      ∃ r', probeIdentified d u = { t with lastErr := 0x07, result := r' }) ∧
    ∀ t shown, followupRun u.params.probeFollowups { u.latched code r with devAvail := true } = (t, some shown) →
      ∃ replies, replies.map ExchEnd.shown = shown ∧ probeIdentified d u = { t with
        portOpen := false, serialRx := [], sesState := .identified, lastErr := 0x00, result := .ident d replies } := by
  have hsame : SameProbe { u.latched code r with devAvail := true } { u with sesState := .identified, devAvail := true } :=
    ⟨u.sesState, code, r, rfl⟩
  have halike := followupRun_followups u.params.probeFollowups [] hsame
  unfold probeIdentified
  generalize followups u.params.probeFollowups [] { u with sesState := .identified, devAvail := true } = ends at halike ⊢
  constructor
  · intro t hrun
    rw [hrun] at halike
    cases halike
    exact ⟨.none, rfl⟩
  · intro t shown hrun
    rw [hrun] at halike
    cases halike with
    | done more hsame =>
      obtain ⟨ses, code', r', rfl⟩ := hsame
      exact ⟨more, rfl, rfl⟩

theorem probeIdentified_of_no_followups (d : Reply) {s : State} (h : s.params.probeFollowups = []) : probeIdentified d s =
    { s with portOpen := false, serialRx := [], sesState := .identified, devAvail := true }.complete .ok (.ident d []) := by
  rw [probeIdentified, h]
  rfl

/-- Settles O35: the identification is an exchange answered on its first transmission, and the follow-ups are those of
`followupRun`. -/
theorem probeIdentifiesDevice : Obligations.ProbeIdentifiesDevice := by
  refine ⟨?whole, ?followups⟩
  case whole =>
    intro s os ws rs arr f r hs hos hws hrs hf hrx hdecode hnak hsig hnone
    have hopen : s.openAnswer = true := by rw [State.openAnswer, hos]
    have hreply : replyBytes s.probing = arr.take s.params.rxCap := by
      rw [replyBytes_eq, nextArrivals_of_script (s := s.probing) hrs]
      rfl
    have hverdict : verdict s.params s.ebdAck (arr.take s.params.rxCap) = .ok r :=
      (decodeReply_verdict ..).symm.trans hdecode
    have hx := exchange_answered (s := s.probing) (cmd := identCommand s.params) (payload := []) rfl hf
      (writeAnswer_of_script (s := s.probing) hws) (by rwa [hreply]) (by rw [hreply]; exact hverdict) hnak
    have hprobe := (sesProbe_of_answer hs hopen hx).trans <| congrArg Host.Outcome.next <|
      (if_pos hsig).trans (probeIdentified_of_no_followups r hnone)
    have hreply' : replyBytes (s.probing.beginExchange f) = arr.take s.params.rxCap := hreply
    refine ⟨_, hprobe, rfl, rfl, rfl, rfl, rfl, rfl, rfl, rfl, rfl, rfl, Memory.read_store f, rfl, ?_, ?_, rfl, ?_⟩
    · rw [← hreply]
      exact Memory.read_store _
    · rw [← hreply]
      rfl
    · have htraced : tracedIn (s.probing.beginExchange f) [(.tx, f), (.rx, arr.take s.params.rxCap)] = [] :=
        tracedIn_eq_nil (s := s.probing.beginExchange f) nofun _
      have hos' : (s.probing.beginExchange f).openScript = os := congrArg List.tail hos
      have hws' : (s.probing.beginExchange f).writeScript = true :: ws := hws
      have hrs' : (s.probing.beginExchange f).readScript = arr :: rs := hrs
      rw [received, hreply', htraced, List.append_nil, hos', hws', hrs']
      rfl
  case followups =>
    intro s a d hs hopen hexec hcode hresult hsig
    obtain ⟨u, e, hx, rfl⟩ := exchange_of_exec hexec
    obtain rfl : e = .answer d := by
      cases e with
      | answer d' => exact congrArg ExchEnd.answer (Result.reply.inj hresult)
      | failed e => cases e <;> cases hresult
    have hparams : u.params = s.params := exchange_params (s := s.probing) hx
    have hprobe := sesProbe_of_answer hs hopen hx
    rw [if_pos hsig] at hprobe
    obtain ⟨htorn, hdone⟩ := probeIdentified_followupRun u d Status.ok.code (.reply d)
    rw [hparams] at htorn hdone
    refine ⟨fun t hrun => ?_, fun t shown hrun => ?_⟩
    · obtain ⟨r, hend⟩ := htorn t hrun
      exact ⟨r, hprobe.trans (congrArg _ hend)⟩
    · obtain ⟨replies, hshown, hend⟩ := hdone t shown hrun
      exact ⟨replies, hshown, hprobe.trans (congrArg _ hend)⟩

end Sys2Proof.Machine
end

section
/-! Money over a sequence of polls, and a whole cycle that stacks a bill (43_escrow.md R281, R286, R292, R300). -/

namespace Sys2Proof.Machine

/-! ### The account of a sequence of polls -/

/-- What a poll adds to the account: the denomination of an escrow event that is stacked as a new one (43_escrow.md R281). -/
def taken (s : State) : PollState → Word → List Word
  | .escrow d, now => if escrowArm s d now = .accept then [d] else []
  | _, _ => []

theorem pollRun_cons (st : PollState) (now : Word) (rest : List (PollState × Word)) (s : State) :
    pollRun ((st, now) :: rest) s =
      ((pollRun rest (poll st now s).1).1, taken s st now ++ (pollRun rest (poll st now s).1).2) := by
  cases st <;> rfl

theorem taken_of_ne {st : PollState} (s : State) (now : Word) (h : ∀ d, st ≠ .escrow d) : taken s st now = [] := by
  cases st with
  | escrow d => exact absurd rfl (h d)
  | _ => rfl

/-- The sum register and its overflow flag hold a total (43_escrow.md R286). -/
structure Holds (s : State) (total : Nat) : Prop where
  accSum : s.accSum = BitVec.ofNat 32 total
  fSumOvf : s.fSumOvf = decide (2 ^ 32 ≤ total)

/-- The total of denominations. -/
def total (ds : List Word) : Nat := (ds.map BitVec.toNat).sum

theorem total_append (ds es : List Word) : total (ds ++ es) = total ds + total es := by
  simp [total]

/-- A carry, or an earlier one, is told by whether the exact total passes 2^32. -/
theorem Holds.accept {s : State} {n : Nat} (h : Holds s n) (d : Word) :
    s.accSum + d = BitVec.ofNat 32 (n + d.toNat) ∧ sumOvfFlag s d = decide (2 ^ 32 ≤ n + d.toNat) := by
  have hd := d.isLt
  constructor
  · rw [h.accSum]
    apply BitVec.eq_of_toNat_eq
    simp
  · rw [sumOvfFlag, h.fSumOvf, sumCarries, h.accSum, BitVec.toNat_ofNat, ← Bool.decide_or, decide_eq_decide]
    omega

theorem poll_holds (st : PollState) (now : Word) {s : State} {n : Nat} (h : Holds s n) :
    Holds (poll st now s).1 (n + total (taken s st now)) := by
  by_cases hesc : ∃ d, st = .escrow d
  swap
  · obtain ⟨hsum, hovf⟩ := poll_sum_of_ne (s := s) now (not_exists.1 hesc)
    rw [taken_of_ne s now (not_exists.1 hesc)]
    exact ⟨hsum.trans h.accSum, hovf.trans h.fSumOvf⟩
  obtain ⟨d, rfl⟩ := hesc
  rw [poll_escrow]
  by_cases harm : escrowArm s d now = .accept
  · obtain ⟨hsum, hovf⟩ := h.accept d
    simp only [taken, harm, if_true, total, List.map_cons, List.map_nil, List.sum_singleton]
    exact ⟨hsum, hovf⟩
  · simp only [taken, harm, if_false]
    exact ⟨h.accSum, h.fSumOvf⟩

/-! ### The accepted bills in the queue -/

theorem acceptedValues_append (es fs : List Event) : acceptedValues (es ++ fs) = acceptedValues es ++ acceptedValues fs :=
  List.filterMap_append

theorem acceptedValues_changeEvents (s : State) (st : PollState) : acceptedValues (changeEvents s st) = [] := by
  unfold changeEvents
  split <;> rfl

theorem acceptedValues_armEvents (d : Word) (arm : EscrowArm) : acceptedValues (armEvents d arm) = [] := by
  cases arm <;> rfl

/-- The NominalAccepted events so far, and the one a pending acceptance may yet become (43_escrow.md R287). -/
def acceptances (s : State) : Nat := (acceptedValues s.evq).length + s.pendAcc.toNat

/-- Only an escrow event that is stacked as a new one makes an acceptance pending, and it becomes one event at most. -/
theorem poll_acceptances (st : PollState) (now : Word) (s : State) :
    acceptances (poll st now s).1 ≤ acceptances s + (taken s st now).length := by
  by_cases hesc : ∃ d, st = .escrow d
  · obtain ⟨d, rfl⟩ := hesc
    simp only [poll_escrow, acceptances, taken, acceptedValues_append, acceptedValues_changeEvents,
      acceptedValues_armEvents, List.append_nil]
    split_ifs
    · simp
    · simp
  rw [taken_of_ne s now (not_exists.1 hesc)]
  by_cases hstk : ∃ d, st = .stacked d
  · obtain ⟨d, rfl⟩ := hstk
    have hone : (acceptedValues (stackedEvents s d)).length ≤ s.pendAcc.toNat := by
      unfold stackedEvents
      split
      next hpend => simp [hpend.1, acceptedValues]
      · exact Nat.zero_le _
    simp only [poll_stacked, acceptances, acceptedValues_append, acceptedValues_changeEvents, List.append_nil,
      List.length_append, Bool.toNat_false, List.length_nil]
    omega
  · rw [poll_of_no_bill now (not_exists.1 hesc) (not_exists.1 hstk)]
    simp only [acceptances, acceptedValues_append, acceptedValues_changeEvents, List.append_nil, List.length_nil]
    split_ifs
    · simp
    · exact le_rfl

/-! ### The sequence of polls -/

theorem pollRun_account (polls : List (PollState × Word)) {s : State} {n : Nat} (h : Holds s n) :
    Holds (pollRun polls s).1 (n + total (pollRun polls s).2) ∧
      acceptances (pollRun polls s).1 ≤ acceptances s + (pollRun polls s).2.length := by
  induction polls generalizing s n with
  | nil => exact ⟨h, Nat.le_refl _⟩
  | cons q rest ih =>
    obtain ⟨st, now⟩ := q
    obtain ⟨hholds, haccepted⟩ := ih (poll_holds st now h)
    have hone := poll_acceptances st now s
    rw [pollRun_cons]
    refine ⟨?_, ?_⟩
    · rw [total_append, ← Nat.add_assoc]
      exact hholds
    · rw [List.length_append]
      exact haccepted.trans (by omega)

/-- ESC.POLL operations while polling are polls, one after the other. -/
theorem runInstrs_polls (polls : List (PollState × Word)) {s : State} (hs : s.sesState = .polling) (code : Byte)
    (r : Result) : ∃ code' r', runInstrs (polls.map fun q => .escPoll q.1 q.2) (s.latched code r) =
      .next ((pollRun polls s).1.latched code' r') := by
  induction polls generalizing s code r with
  | nil => exact ⟨code, r, rfl⟩
  | cons q rest ih =>
    obtain ⟨st, now⟩ := q
    obtain ⟨code', r', hrest⟩ := ih ((pollKept_poll s st now).sesState.trans hs) Status.ok.code
      (.decision (poll st now s).2 (repollOf (poll st now s).2))
    have hexec : exec (.escPoll st now) (s.latched code r) = .next ((poll st now s).1.latched Status.ok.code
        (.decision (poll st now s).2 (repollOf (poll st now s).2))) := by
      refine (execEscPoll_polling (s := s.latched code r) st now hs).trans ?_
      rw [poll_latched]
      rfl
    refine ⟨code', r', ?_⟩
    rw [List.map_cons, runInstrs, hexec, pollRun_cons]
    exact hrest

/-- Settles O53: from cleared registers the total starts at 0, and no acceptance is pending. -/
theorem pollsAccountForMoney : Obligations.PollsAccountForMoney := by
  rintro s polls hs ⟨hsum, hovf, -, -, -, hpend⟩
  obtain ⟨code, r, hrun⟩ := runInstrs_polls polls hs s.lastErr s.result
  obtain ⟨hholds, haccepted⟩ := pollRun_account polls (s := s) (n := 0) ⟨hsum, hovf⟩
  rw [Nat.zero_add] at hholds
  refine ⟨_, hrun, hholds.accSum, hholds.fSumOvf, ?_⟩
  rw [acceptances, acceptances, hpend] at haccepted
  exact (Nat.le_add_right _ _).trans haccepted

/-! ### A cycle that stacks a bill -/

/-- What an exchange that was answered on its first transmission writes beside its own buffers and registers, where nothing
waited on the line (42_exchange_retry.md R230). -/
structure AnsweredOnce (f rx : Bytes) (s t : State) : Prop where
  serialTx : t.serialTx = s.serialTx ++ f
  serialRx : t.serialRx = []
  trace : t.trace = s.trace ++ [(.tx, f), (.rx, rx)]
  writeScript : t.writeScript = s.writeScript.tail
  readScript : t.readScript = s.readScript.tail
  ebdAck : t.ebdAck = if s.params.proto = .ebds then !s.ebdAck else s.ebdAck

theorem exchange_answeredOnce {s : State} {cmd f rx : Bytes} {ws : List Bool} {rs : List Bytes} {r : Reply}
    (hs : s.sesState = .polling) (hp : s.portOpen = true) (hline : s.serialRx = []) (hws : s.writeScript = true :: ws)
    (hrs : s.readScript = rx :: rs) (hrx : rx ≠ []) (hfits : rx.length ≤ s.params.rxCap)
    (hf : encodeExchange s.params s.ebdAck cmd [] = some f) (hdecode : verdict s.params s.ebdAck rx = .ok r)
    (hnak : nakBusy s.params r = false) :
    ∃ t, exchange cmd [] s = (t, .answer r) ∧ AnsweredOnce f rx s t ∧ ExchangeKept s t ∧ SameSession s t := by
  have harr : nextArrivals s = rx := nextArrivals_of_script hrs
  have hreply : replyBytes s = rx := by
    rw [replyBytes_eq, harr, hline, List.nil_append, List.take_of_length_le hfits]
  have hx := exchange_answered (mayExchange_of_polling hs hp) hf (writeAnswer_of_script hws) (by rwa [hreply])
    (by rwa [hreply]) hnak
  have hkept := exchange_kept cmd [] s
  have hsession := exchange_sameSession (cmd := cmd) (payload := []) (s := s)
  rw [hx] at hkept hsession
  refine ⟨_, hx, ⟨rfl, ?line, ?trace, rfl, rfl, rfl⟩, hkept, hsession nofun⟩
  case line =>
    change (s.serialRx ++ nextArrivals s).drop s.params.rxCap = []
    rw [hline, harr, List.nil_append, List.drop_of_length_le hfits]
  case trace =>
    change s.trace ++ tracedIn s [(.tx, f), (.rx, replyBytes s)] = _
    rw [hreply, tracedIn, if_pos hs]

/-- The registers an escrow event is decided by. -/
theorem escrowArm_congr {s t : State} (hparams : t.params = s.params) (hdb : t.hasDbError = s.hasDbError)
    (hesc : t.escrowed = s.escrowed) (htime : t.lastEscTime = s.lastEscTime) (hrej : t.rejectAboveMax = s.rejectAboveMax)
    (hmax : t.maxSum = s.maxSum) (hsum : t.accSum = s.accSum) (d now : Word) : escrowArm t d now = escrowArm s d now := by
  have hdup : isDuplicate t now = isDuplicate s now := by rw [isDuplicate, isDuplicate, hesc, htime, hparams]
  have habove : aboveMax t d = aboveMax s d := by rw [aboveMax, aboveMax, hrej, hsum, hmax]
  rw [escrowArm, escrowArm, hdb, hdup, habove]

/-- Settles O47: the poll command is answered, the escrow event is stacked, the Stack command is answered. -/
theorem cycleStacksBill : Obligations.CycleStacksBill := by
  intro s now d f g arr arr2 ws rs r r2 ack2 hs hp hstop hline hws hrs harr hfits harr2 hfits2 hf hg hdecode hnak hdecode2
    hnak2 hesc harm
  rw [decodeReply_verdict] at hdecode hdecode2
  obtain ⟨u, hpoll, hu, hkept, hsession⟩ := exchange_answeredOnce hs hp hline hws hrs harr hfits hf hdecode hnak
  have harm' : escrowArm u d now = .accept :=
    (escrowArm_congr hkept.params hkept.hasDbError hsession.escrowed hkept.lastEscTime hkept.rejectAboveMax hkept.maxSum
      hsession.accSum d now).trans harm
  have hstacked := poll_escrow u d now
  simp only [harm', if_true, armCommand, armEvents, List.append_nil] at hstacked
  obtain ⟨v, hv⟩ : ∃ v, v = (poll (.escrow d) now u).1 := ⟨_, rfl⟩
  have hpolled : PollKept u v := hv ▸ pollKept_poll u (.escrow d) now
  have hvparams : v.params = s.params := hpolled.params.trans hkept.params
  have hvack : v.ebdAck = ack2 := hpolled.ebdAck.trans hu.ebdAck
  have hvs : v.sesState = .polling := (hpolled.sesState.trans hsession.sesState).trans hs
  have hvp : v.portOpen = true := (hpolled.portOpen.trans hsession.portOpen).trans hp
  obtain ⟨w, hstack, hw, hkept2, hsession2⟩ := exchange_answeredOnce (s := v) (cmd := s.params.cmdStack) (f := g)
    (rx := arr2) (ws := ws) (rs := rs) (r := r2) hvs hvp (hpolled.serialRx.trans hu.serialRx)
    (by rw [hpolled.writeScript, hu.writeScript, hws]; rfl) (by rw [hpolled.readScript, hu.readScript, hrs]; rfl) harr2
    (by rwa [hvparams]) (by rwa [hvparams, hvack]) (by rwa [hvparams, hvack]) (by rwa [hvparams])
  have hcycle : exec (.sesCycle now) s = .next (w.complete .ok (.cycle false true)) := by
    refine (execSesCycle_running now hs hstop).trans (congrArg Host.Outcome.next ?_)
    rw [cyclePoll_answered now hpoll, hkept.params, hesc, ← hv, hstacked]
    exact cycleCommand_answered (congrArg some (congrArg Params.cmdStack hvparams)) hstack
  replace hv := hv.trans (congrArg Prod.fst hstacked)
  refine ⟨_, hcycle, rfl, rfl, ?serialTx, hw.serialRx, ?accSum, hsession2.pendAcc.trans (by rw [hv]),
    hsession2.escrowed.trans (by rw [hv]), hkept2.lastEscTime.trans (by rw [hv]), hsession2.lastCmd.trans (by rw [hv]),
    hsession2.escPrev.trans (by rw [hv]), ?evq, ?ebdAck, hsession2.sesState.trans hvs, hsession2.portOpen.trans hvp,
    hkept2.stopPoll.trans ((hpolled.stopPoll.trans hkept.stopPoll).trans hstop), ?trace⟩
  case serialTx => exact hw.serialTx.trans (by rw [hpolled.serialTx, hu.serialTx])
  case accSum => exact hsession2.accSum.trans (by rw [hv]; exact congrArg (· + d) hsession.accSum)
  case evq =>
    refine hkept2.evq.trans ?_
    rw [hv]
    change u.evq ++ changeEvents u (.escrow d) = _
    rw [hkept.evq, changeEvents, hsession.escPrev]
    rfl
  case ebdAck =>
    refine hw.ebdAck.trans ?_
    rw [hvparams, hvack]
    by_cases hebds : s.params.proto = .ebds
    · simp only [ack2, hebds, if_true, Bool.not_not]
    · simp only [ack2, hebds, if_false]
  case trace => exact hw.trace.trans (by rw [hpolled.trace, hu.trace]; simp)

end Sys2Proof.Machine
end

section
/-! The chain of USSD decodings (44_at_decoder.md R350, R361). -/

namespace Sys2Proof.Machine

/-- A match that counts is a match that is not empty (44_at_decoder.md R352). -/
theorem ussdHit_eq_some_iff (p : Params) (text m : List Half) :
    ussdHit p text = some m ↔ ussdMatch p text = some m ∧ m ≠ [] := by
  simp [ussdHit, Option.filter_eq_some_iff]

/-- A stage without a match that counts. -/
theorem ussdHit_eq_none {p : Params} {text : List Half} (h : ∀ m, ¬(ussdMatch p text = some m ∧ m ≠ [])) :
    ussdHit p text = none :=
  Option.eq_none_iff_forall_ne_some.2 fun m hm => h m ((ussdHit_eq_some_iff p text m).1 hm)

/-- A stage that is skipped, or has no match that counts. -/
theorem stage_eq_none {p : Params} {text : List Half} {c : Prop} [Decidable c]
    (h : ∀ m, ¬(c ∧ ussdMatch p text = some m ∧ m ≠ [])) : (if c then ussdHit p text else none) = none := by
  split
  next hc => exact ussdHit_eq_none fun m hm => h m ⟨hc, hm⟩
  · rfl

/-- The text of the chain is a match, or empty. -/
theorem ussdChain_text (p : Params) (raw : Bytes) :
    (ussdChain p raw).1 = [] ∨ ∃ text, ussdMatch p text = some (ussdChain p raw).1 := by
  have hmatch : ∀ {text m}, ussdHit p text = some m → ∃ text, ussdMatch p text = some m := fun h =>
    ⟨_, ((ussdHit_eq_some_iff p _ _).1 h).1⟩
  unfold ussdChain
  split
  next h => exact Or.inr (hmatch h)
  split
  next h => exact Or.inr (hmatch (Option.ite_none_right_eq_some.1 h).2)
  split
  next h => exact Or.inr (hmatch (Option.ite_none_right_eq_some.1 h).2)
  · exact Or.inl rfl

/-- Settles O30: each stage is reached where the stages before it have no match that counts. -/
theorem ussdChainOrder : Obligations.UssdChainOrder := by
  intro p raw hit plain gsm ucs
  have hnoPlain : (∀ m, ¬hit plain m) → ussdHit p (raw.map fun b => b.setWidth 16) = none := ussdHit_eq_none
  have hnoGsm : (∀ m, ¬(hexOk raw = true ∧ hit gsm m)) →
    (if hexOk raw then ussdHit p (gsm7Decode p (unhex raw)) else none) = none := stage_eq_none
  refine ⟨fun m hm => ?plain, fun hplain => ⟨fun m hhex hm => ?gsm, fun hgsm =>
    ⟨fun m hhex hlen hm => ?ucs, fun hucs => ?none⟩⟩, ussdChain_text p raw⟩
  case plain =>
    have hsome : ussdHit p (raw.map fun b => b.setWidth 16) = some m := (ussdHit_eq_some_iff p plain m).2 hm
    simp only [ussdChain, hsome]
  case gsm =>
    have hsome : ussdHit p (gsm7Decode p (unhex raw)) = some m := (ussdHit_eq_some_iff p gsm m).2 hm
    simp only [ussdChain, hnoPlain hplain, hhex, if_true, hsome]
  case ucs =>
    have hsome : ussdHit p (ucs2Decode (unhex raw)) = some m := (ussdHit_eq_some_iff p ucs m).2 hm
    simp only [ussdChain, hnoPlain hplain, hnoGsm hgsm, if_pos (And.intro hhex hlen), hsome]
  case none =>
    have hnoUcs : (if hexOk raw = true ∧ raw.length % 4 = 0 then ussdHit p (ucs2Decode (unhex raw)) else none) = none :=
      stage_eq_none fun m hm => hucs m ⟨hm.1.1, hm.1.2, hm.2⟩
    simp only [ussdChain, hnoPlain hplain, hnoGsm hgsm, hnoUcs]

end Sys2Proof.Machine
end

section
/-! One changed byte in a frame (41_framers.md R210): a check that sees every change of one byte leaves no other frame of the
same length at that distance, so what the decoders report follows from the checks that come before it. -/

namespace Sys2Proof.Machine

/-! ### A check that sees one changed byte -/

/-- The bytes a check appends to what it covers tell apart any two sequences that differ in one byte. -/
def SeesChange (check : Bytes → Bytes) : Prop :=
  ∀ xs ys b c, check (xs ++ b :: ys) = check (xs ++ c :: ys) → b = c

/-- Two checked sequences of one length never differ in one byte alone. -/
theorem SeesChange.unchanged {check : Bytes → Bytes} (h : SeesChange check) {g g' : Bytes} {k : Nat} {b : Byte}
    (hlen : g'.length = g.length) (hk : k < (g ++ check g).length) (heq : (g ++ check g).set k b = g' ++ check g') :
    (g ++ check g)[k]? = some b := by
  rcases Nat.lt_or_ge k g.length with hin | hout
  · rw [List.set_append_left _ _ hin] at heq
    obtain ⟨rfl, hcheck⟩ := List.append_inj heq (by rw [List.length_set, hlen])
    have hg : g = g.take k ++ g[k] :: g.drop (k + 1) := by simp
    have hb : g[k] = b := h (g.take k) (g.drop (k + 1)) g[k] b (by
      rw [← hg, hcheck, List.set_eq_take_append_cons_drop, if_pos hin])
    rw [List.getElem?_append_left hin, List.getElem?_eq_getElem hin, hb]
  · rw [List.set_append_right _ _ hout] at heq
    obtain ⟨rfl, hcheck⟩ := List.append_inj heq hlen.symm
    rw [List.length_append] at hk
    rw [List.getElem?_append_right hout, ← hcheck, List.getElem?_set_self (by omega)]

/-- The check of cctalk (40_checksum.md R132). -/
def cctChecked (g : Bytes) : Bytes := [sum8 g]

/-- The check of CCNET, low byte first (30_encoding.md R96). -/
def ccnChecked (p : Params) (g : Bytes) : Bytes := [loByte (instanceCrc p g), hiByte (instanceCrc p g)]

/-- The last two bytes of an EBDS frame, of which the first is POSTFIX (30_encoding.md R100). -/
def ebdChecked (p : Params) (g : Bytes) : Bytes := [ebdPostfix, ebdCheck p (g ++ [ebdPostfix])]

theorem cctFrame_checked (dest src cmd : Byte) (payload : Bytes) :
    cctFrame dest src cmd payload = ([dest, BitVec.ofNat 8 payload.length, src, cmd] ++ payload) ++
      cctChecked ([dest, BitVec.ofNat 8 payload.length, src, cmd] ++ payload) := rfl

theorem ccnFrame_checked (p : Params) (addr cmd : Byte) (payload : Bytes) :
    ccnFrame p addr cmd payload = ([syncByte, addr, BitVec.ofNat 8 (payload.length + 6), cmd] ++ payload) ++
      ccnChecked p ([syncByte, addr, BitVec.ofNat 8 (payload.length + 6), cmd] ++ payload) := rfl

theorem ebdFrame_checked (p : Params) (ctl : Byte) (data : Bytes) :
    ebdFrame p ctl data = ebdPrefix :: (([BitVec.ofNat 8 (data.length + 5), ctl] ++ data) ++
      ebdChecked p ([BitVec.ofNat 8 (data.length + 5), ctl] ++ data)) := by
  simp [ebdFrame, ebdChecked]

theorem seesChange_cct : SeesChange cctChecked := fun xs ys b c h =>
  sum8_cons_append xs ys b c (List.singleton_inj.1 h)

theorem seesChange_ccn (p : Params) : SeesChange (ccnChecked p) := fun xs ys b c h => by
  obtain ⟨hlo, htail⟩ := List.cons.inj h
  have hcrc : instanceCrc p (xs ++ b :: ys) = instanceCrc p (xs ++ c :: ys) := by
    rw [← ofLoHi_split (instanceCrc p (xs ++ b :: ys)), hlo, List.singleton_inj.1 htail, ofLoHi_split]
  exact crc16_cons_append _ _ xs ys b c hcrc

theorem seesChange_ebd (p : Params) : SeesChange (ebdChecked p) := fun xs ys b c h => by
  have hcheck := List.singleton_inj.1 (List.cons.inj h).2
  rw [ebdCheck_concat, ebdCheck_concat] at hcheck
  split at hcheck
  · rw [List.append_assoc, List.append_assoc] at hcheck
    exact xor8_cons_append xs (ys ++ [ebdPostfix]) b c hcheck
  · exact xor8_cons_append xs ys b c hcheck

/-! ### Frames at a distance of one byte -/

section
variable {k : Nat} {b : Byte} {payload payload' : Bytes}

theorem cctFrame_distance {dest src cmd dest' src' cmd' : Byte} (hk : k < payload.length + 5)
    (hlen : payload'.length = payload.length)
    (heq : (cctFrame dest src cmd payload).set k b = cctFrame dest' src' cmd' payload') :
    (cctFrame dest src cmd payload)[k]? = some b := by
  have hk' : k < (cctFrame dest src cmd payload).length := by rwa [cctFrame_length]
  rw [cctFrame_checked] at hk' heq ⊢
  exact seesChange_cct.unchanged (by simp [hlen]) hk' heq

theorem ccnFrame_distance {p : Params} {addr cmd addr' cmd' : Byte} (hk : k < payload.length + 6)
    (hlen : payload'.length = payload.length)
    (heq : (ccnFrame p addr cmd payload).set k b = ccnFrame p addr' cmd' payload') :
    (ccnFrame p addr cmd payload)[k]? = some b := by
  have hk' : k < (ccnFrame p addr cmd payload).length := by rwa [ccnFrame_length]
  rw [ccnFrame_checked] at hk' heq ⊢
  exact (seesChange_ccn p).unchanged (by simp [hlen]) hk' heq

theorem ebdFrame_distance {p : Params} {ctl ctl' : Byte} (hk : k < payload.length + 5)
    (hlen : payload'.length = payload.length)
    (heq : (ebdFrame p ctl payload).set k b = ebdFrame p ctl' payload') :
    (ebdFrame p ctl payload)[k]? = some b := by
  have hk' : k < (ebdFrame p ctl payload).length := by rwa [ebdFrame_length]
  rw [ebdFrame_checked, ebdFrame_checked] at heq
  rw [ebdFrame_checked] at hk' ⊢
  cases k with
  | zero => rw [List.getElem?_cons_zero, (List.cons.inj heq).1]
  | succ k =>
    rw [List.length_cons] at hk'
    exact (seesChange_ebd p).unchanged (by simp [hlen]) (Nat.lt_of_succ_lt_succ hk') (List.cons.inj heq).2

end

/-! ### What the decoders report -/

section
variable {l : Bytes} {i k : Nat} {b : Byte}

theorem getD_set_ne (h : i ≠ k) : (l.set k b).getD i 0 = l.getD i 0 := by
  rw [List.getD_eq_getElem?_getD, List.getElem?_set_ne (Ne.symm h), ← List.getD_eq_getElem?_getD]

theorem getD_set_self (h : k < l.length) : (l.set k b).getD k 0 = b := by
  rw [List.getD_eq_getElem?_getD, List.getElem?_set_self h]
  rfl

theorem getD_ne_of_changed (h : k < l.length) (hb : l[k]? ≠ some b) : b ≠ l.getD k 0 := by
  rintro rfl
  rw [List.getElem?_eq_getElem h, List.getD_eq_getElem _ _ h] at hb
  exact hb rfl

end

theorem toNat_lengthByte {n : Nat} (h : n < 256) : (BitVec.ofNat 8 n).toNat = n := by
  rw [BitVec.toNat_ofNat, Nat.mod_eq_of_lt h]

section
variable {dest src cmd b : Byte} {payload : Bytes} {k : Nat} (hlen : payload.length ≤ 255)
  (hk : k < payload.length + 5) (hb : (cctFrame dest src cmd payload)[k]? ≠ some b)
include hk hb

theorem cctDecode_damaged_ne_ok (r : Byte × Byte × Bytes) :
    cctDecode dest ((cctFrame dest src cmd payload).set k b) ≠ .ok r := by
  intro hok
  obtain ⟨heq, -⟩ := cctDecode_ok hok
  have hlength := congrArg List.length heq
  rw [List.length_set, cctFrame_length, cctFrame_length] at hlength
  exact hb (cctFrame_distance hk (by omega) heq)

include hlen

/-- cctalk: the address and the length are checked before the checksum, which sees any other change. -/
theorem cctDecode_damaged : cctDecode dest ((cctFrame dest src cmd payload).set k b) =
    .error (if k = 0 then .address else if k = 1 then .length else .checksum) := by
  have hnotOk := cctDecode_damaged_ne_ok hk hb
  have hk' : k < (cctFrame dest src cmd payload).length := by rwa [cctFrame_length]
  have hchanged := getD_ne_of_changed hk' hb
  have hrx : ((cctFrame dest src cmd payload).set k b).length = payload.length + 5 := by
    rw [List.length_set, cctFrame_length]
  have hdest : (cctFrame dest src cmd payload).getD 0 0 = dest := rfl
  have hlenByte : ((cctFrame dest src cmd payload).getD 1 0).toNat = payload.length := toNat_lengthByte (by omega)
  rw [cctDecode_eq, if_neg (by omega)] at hnotOk ⊢
  by_cases h0 : k = 0
  · subst h0
    rw [getD_set_self hk', if_pos (hdest ▸ hchanged), if_pos rfl]
  rw [getD_set_ne (Ne.symm h0), if_neg (not_not.2 hdest)] at hnotOk ⊢
  rw [if_neg h0]
  by_cases h1 : k = 1
  · subst h1
    rw [getD_set_self hk', if_pos, if_pos rfl]
    rw [hrx, ← hlenByte, ne_eq, Nat.add_right_cancel_iff, BitVec.toNat_inj]
    exact hchanged
  rw [getD_set_ne (Ne.symm h1), hlenByte, hrx, if_neg (not_not.2 rfl)] at hnotOk ⊢
  rw [if_neg h1]
  exact if_pos fun hsum => hnotOk _ (if_neg (not_not.2 hsum))

end

section
variable {p : Params} {ctl b : Byte} {data : Bytes} {k : Nat} (hlen : data.length ≤ 250) (hk : k < data.length + 5)
  (hb : (ebdFrame p ctl data)[k]? ≠ some b)
include hk hb

theorem ebdParse_damaged_ne_ok (r : Byte × Bytes) : ebdParse p ((ebdFrame p ctl data).set k b) ≠ .ok r := by
  intro hok
  obtain ⟨heq, -⟩ := ebdParse_ok hok
  have hlength := congrArg List.length heq
  rw [List.length_set, ebdFrame_length, ebdFrame_length] at hlength
  exact hb (ebdFrame_distance hk (by omega) heq)

include hlen

/-- EBDS: PREFIX, the length and POSTFIX are checked before the check byte, which sees any other change. -/
theorem ebdParse_damaged : ebdParse p ((ebdFrame p ctl data).set k b) =
    .error (if k = 0 ∨ k = 1 ∨ k = data.length + 3 then .length else .checksum) := by
  have hnotOk := ebdParse_damaged_ne_ok hk hb
  have hk' : k < (ebdFrame p ctl data).length := by rwa [ebdFrame_length]
  have hchanged := getD_ne_of_changed hk' hb
  have hrx : ((ebdFrame p ctl data).set k b).length = data.length + 5 := by rw [List.length_set, ebdFrame_length]
  have hprefix : (ebdFrame p ctl data).getD 0 0 = 0x02 := rfl
  have hlenByte : ((ebdFrame p ctl data).getD 1 0).toNat = data.length + 5 := toNat_lengthByte (by omega)
  have hpostfix : (ebdFrame p ctl data).getD (data.length + 3) 0 = 0x03 := by
    simp [ebdFrame, ebdPostfix, List.getD_eq_getElem?_getD]
  rw [ebdParse_eq, hrx, show data.length + 5 - 2 = data.length + 3 from rfl] at hnotOk ⊢
  by_cases hframe : k = 0 ∨ k = 1 ∨ k = data.length + 3
  · rw [if_pos hframe, if_pos]
    rcases hframe with rfl | rfl | rfl
    · rw [getD_set_self hk']
      exact Or.inr (Or.inl (hprefix ▸ hchanged))
    · rw [getD_set_self hk', ← hlenByte, ne_eq, ne_eq, BitVec.toNat_inj]
      exact Or.inr (Or.inr (Or.inl hchanged))
    · rw [getD_set_self hk']
      exact Or.inr (Or.inr (Or.inr (hpostfix ▸ hchanged)))
  · have hkept := hframe
    simp only [not_or] at hkept
    obtain ⟨h0, h1, h3⟩ := hkept
    rw [getD_set_ne (Ne.symm h0), getD_set_ne (Ne.symm h1), getD_set_ne (Ne.symm h3), hprefix, hlenByte, hpostfix,
      if_neg (by simp)] at hnotOk ⊢
    rw [if_neg hframe]
    exact if_pos fun hcheck => hnotOk _ (if_neg (not_not.2 hcheck))

end

/-- The watchdog request: three fixed bytes and a command without redundancy. -/
theorem wdgDecode_damaged {cmd b : Byte} {k : Nat} (hk : k < 4) (hb : (wdgFrame cmd)[k]? ≠ some b) :
    wdgDecode ((wdgFrame cmd).set k b) = if k = 3 then .ok b else .error .length := by
  by_cases h3 : k = 3
  · subst h3
    rw [if_pos rfl]
    exact wdgDecode_frame b
  · rw [if_neg h3]
    refine wdgDecode_of_ne fun cmd' heq => hb ?_
    have hsame : (wdgFrame cmd)[k]? = (wdgFrame cmd')[k]? := by
      rw [wdgFrame, wdgFrame, List.getElem?_append_left (by simp [wdgHeader]; omega),
        List.getElem?_append_left (by simp [wdgHeader]; omega)]
    rw [hsame, ← heq, List.getElem?_set_self (by simpa [wdgFrame, wdgHeader] using hk)]

/-! ### CCNET -/

/-- How the scan of FRM.CCN.DEC ends: at the first valid candidate, or with an error that tells whether a whole one failed
its CRC (41_framers.md R178, R181). -/
theorem ccnDecode_cases (p : Params) (expect : Byte) (rx : Bytes) :
    (∃ i len, CcnValid p rx i len ∧ (ccnDecode p expect rx = .frame (rx.getD (i + 3) 0) (slice rx (i + 4) (i + len - 2)) i ∨
        ccnDecode p expect rx = .wrongAddress i)) ∨
      ∃ e, ccnDecode p expect rx = .failed e := by
  by_cases hvalid : ∃ i len, CcnValid p rx i len
  · left
    obtain ⟨i, ⟨len, hi⟩, hfirst⟩ : ∃ i, (∃ len, CcnValid p rx i len) ∧ ∀ j < i, ¬∃ m, CcnValid p rx j m := by
      classical
      exact ⟨Nat.find hvalid, Nat.find_spec hvalid, fun j hj => Nat.find_min hvalid hj⟩
    refine ⟨i, len, hi, ?_⟩
    rw [ccnDecode_of_first_valid expect hi fun j m hj hm => hfirst j hj ⟨m, hm⟩]
    split
    · exact Or.inl rfl
    · exact Or.inr rfl
  · have hnone : ∀ i len, ¬CcnValid p rx i len := fun i len h => hvalid ⟨i, len, h⟩
    by_cases hwhole : ∃ i len, CcnWhole rx i len
    · exact Or.inr ⟨_, ccnDecode_of_crc_failed expect hnone hwhole⟩
    · exact Or.inr ⟨_, ccnDecode_of_none_whole expect fun i len h => hwhole ⟨i, len, h⟩⟩

section
variable {p : Params} {addr cmd b : Byte} {payload : Bytes} {k : Nat} (hlen : payload.length ≤ 249)
  (hk : k < payload.length + 6) (hb : (ccnFrame p addr cmd payload)[k]? ≠ some b)
include hlen hk hb

/-- While the length byte stands, the CRC sees the change. -/
theorem ccnDamaged_not_valid (h2 : k ≠ 2) (len : Nat) : ¬CcnValid p ((ccnFrame p addr cmd payload).set k b) 0 len := by
  intro hvalid
  have hcandidate := ccnCandidate_drop_of_valid hvalid
  rw [List.drop_zero] at hcandidate
  obtain ⟨rest, heq, hshort⟩ := ccnCandidate_valid hcandidate
  generalize slice ((ccnFrame p addr cmd payload).set k b) (0 + 4) (0 + len - 2) = payload' at heq hshort
  have hlenByte : BitVec.ofNat 8 (payload.length + 6) = BitVec.ofNat 8 (payload'.length + 6) := by
    have hsecond := congrArg (·[2]?) heq
    simp only [List.getElem?_set_ne h2] at hsecond
    exact Option.some.inj hsecond
  have hsame : payload'.length = payload.length := by
    have hnat := congrArg BitVec.toNat hlenByte
    rw [toNat_lengthByte (by omega), toNat_lengthByte (by omega)] at hnat
    omega
  have hlength := congrArg List.length heq
  rw [List.length_set, List.length_append, ccnFrame_length, ccnFrame_length, hsame] at hlength
  obtain rfl : rest = [] := List.eq_nil_of_length_eq_zero (by omega)
  rw [List.append_nil] at heq
  exact hb (ccnFrame_distance hk hsame heq)

omit hk hb

/-- While SYNC and the length byte stand, the damaged frame is a whole candidate at index 0. -/
theorem ccnDamaged_whole (h0 : k ≠ 0) (h2 : k ≠ 2) :
    CcnWhole ((ccnFrame p addr cmd payload).set k b) 0 (payload.length + 6) := by
  refine ⟨?_, ?_, by omega, ?_⟩
  · rw [List.getElem?_set_ne h0]
    rfl
  · rw [Nat.zero_add, List.getElem?_set_ne h2]
    exact congrArg some (toNat_lengthByte (by omega))
  · rw [List.length_set, ccnFrame_length, Nat.zero_add]

end

/-- Without SYNC no candidate stands at index 0. -/
theorem ccnDamaged_sync_not_whole {p : Params} {addr cmd b : Byte} {payload : Bytes}
    (hb : (ccnFrame p addr cmd payload)[0]? ≠ some b) (len : Nat) :
    ¬CcnWhole ((ccnFrame p addr cmd payload).set 0 b) 0 len := by
  rintro ⟨hsync, -⟩
  exact hb hsync.symm

/-- FRM.CCN.DEC with an error. -/
theorem exec_frmCcnDec_failed {s : State} {rx : Bytes} {expect : Byte} {e : DecErr} (hrx : s.rxBytes = some rx)
    (h : ccnDecode s.params expect rx = .failed e) :
    ∃ t, exec (.frmCcnDec expect) s = .next t ∧ t.lastErr = (decErrStatus e).code ∧ t.result = .none := by
  refine ⟨_, exec_frmCcnDec hrx expect, ?_⟩
  rw [h]
  exact ⟨rfl, rfl⟩

/-- No frame is reported at an index where no candidate is valid. -/
theorem exec_frmCcnDec_result_ne {s : State} {rx : Bytes} {expect : Byte} {i : Nat} (hrx : s.rxBytes = some rx)
    (hnone : ∀ len, ¬CcnValid s.params rx i len) {t : State} (h : exec (.frmCcnDec expect) s = .next t) :
    (∀ c bs, t.result ≠ .reply (.ccn c bs i)) ∧ t.result ≠ .wrongAddress i := by
  obtain rfl := Host.Outcome.next.inj ((exec_frmCcnDec hrx expect).symm.trans h)
  rcases ccnDecode_cases s.params expect rx with ⟨j, len, hvalid, hdecode | hdecode⟩ | ⟨e, hdecode⟩ <;> rw [hdecode]
  · refine ⟨fun c bs heq => ?_, nofun⟩
    cases heq
    exact hnone len hvalid
  · refine ⟨nofun, fun heq => ?_⟩
    cases heq
    exact hnone len hvalid
  · exact ⟨nofun, nofun⟩

theorem exec_frmCcnDec_crcFailed {s t : State} {rx : Bytes} {expect : Byte} (hrx : s.rxBytes = some rx)
    (h : exec (.frmCcnDec expect) s = .next t) (hnone : ∀ i len, ¬CcnValid s.params rx i len)
    (hwhole : ∃ i len, CcnWhole rx i len) : t.lastErr = 0x01 := by
  obtain ⟨u, hu, hcode, -⟩ := exec_frmCcnDec_failed hrx (ccnDecode_of_crc_failed expect hnone hwhole)
  obtain rfl := Host.Outcome.next.inj (h.symm.trans hu)
  exact hcode

theorem exec_frmCcnDec_noneWhole {s t : State} {rx : Bytes} {expect : Byte} (hrx : s.rxBytes = some rx)
    (h : exec (.frmCcnDec expect) s = .next t) (hnone : ∀ i len, ¬CcnWhole rx i len) : t.lastErr = 0x02 := by
  obtain ⟨u, hu, hcode, -⟩ := exec_frmCcnDec_failed hrx (ccnDecode_of_none_whole (p := s.params) expect hnone)
  obtain rfl := Host.Outcome.next.inj (h.symm.trans hu)
  exact hcode

/-- What holds at index 0 and at every later index holds at each. -/
theorem forall_index {P : Nat → Nat → Prop} (h0 : ∀ len, P 0 len) (hlater : ∀ i len, 1 ≤ i → P i len) (i len : Nat) :
    P i len := by
  rcases Nat.eq_zero_or_pos i with rfl | hpos
  · exact h0 len
  · exact hlater i len hpos

/-- Settles O25, family by family: each decoder reports the first check that the change fails. -/
theorem damagedFrameErrors : Obligations.DamagedFrameErrors := by
  refine ⟨?cctalk, ?ebds, ?ccnet, ?watchdog⟩
  case cctalk =>
    intro s dest src cmd b payload k hlen hk hb hrx
    refine ⟨.none, (exec_frmCctDec hrx dest).trans ?_⟩
    rw [cctDecode_damaged hlen hk hb]
    split_ifs <;> rfl
  case ebds =>
    intro s ctl b data expect k hlen hk hb hrx
    refine ⟨.none, (exec_frmEbdDec hrx expect).trans ?_⟩
    rw [ebdDecode_of_parse_error expect (ebdParse_damaged hlen hk hb)]
    split_ifs <;> rfl
  case ccnet =>
    intro s addr cmd expect b payload k hlen hk hb rx hrx
    obtain ⟨t, hexec⟩ := exec_next (.frmCcnDec expect) hrx
    have hinvalid : k ≠ 2 → ∀ len, ¬CcnValid s.params rx 0 len := ccnDamaged_not_valid hlen hk hb
    refine ⟨t, hexec, fun h2 => exec_frmCcnDec_result_ne hrx (hinvalid h2) hexec, ?covered, ?noSync, ?syncWhole,
      fun _ => exec_frmCcnDec_crcFailed hrx hexec, fun _ => exec_frmCcnDec_noneWhole hrx hexec⟩
    case covered =>
      intro h0 h2 hlater
      exact exec_frmCcnDec_crcFailed hrx hexec (forall_index (hinvalid h2) hlater)
        ⟨0, _, ccnDamaged_whole hlen h0 h2⟩
    case noSync =>
      rintro rfl hlater
      exact exec_frmCcnDec_noneWhole hrx hexec (forall_index (ccnDamaged_sync_not_whole hb) hlater)
    case syncWhole =>
      rintro h0 hlater ⟨i, len, -, hwhole⟩
      exact exec_frmCcnDec_crcFailed hrx hexec (forall_index (hinvalid (by omega)) hlater) ⟨i, len, hwhole⟩
  case watchdog =>
    intro s cmd b k hk hb hrx
    have hexec := exec_frmWdgDec hrx
    rw [wdgDecode_damaged hk hb] at hexec
    by_cases h3 : k = 3
    · rw [if_pos h3] at hexec ⊢
      exact ⟨.wdgCommand b, hexec, fun _ => rfl⟩
    · rw [if_neg h3] at hexec ⊢
      exact ⟨.none, hexec, fun h => absurd h h3⟩

end Sys2Proof.Machine
end
